-- ==== Sys2Proof/Word.lean ====
section
/-! DEFINITION. The bit-vector types of the block (00_scope.md R4, R6): everything is unsigned and nothing is
sign extended. -/

namespace Sys2Proof

/-- One byte of storage or of a bus value; also the width of a segment register (R24). -/
abbrev Byte := BitVec 8

/-- A 32-bit word of a pixel buffer (R25, R27). -/
abbrev Word32 := BitVec 32

/-- The 64-bit read-data and write-data buses (R80, D4). -/
abbrev Data := BitVec 64

/-- A start offset in the block's local space (R50, R84). -/
abbrev Offset := BitVec 16

/-- A 24-bit command word (R81). -/
abbrev CmdWord := BitVec 24

end Sys2Proof
end

