-- ==== Sys2Proof/Config.lean ====
section
/-! DEFINITION. The parameters of 00_scope.md R4 and R5, and the free values of the state before the first RESET
(10_state.md R34). -/

namespace Sys2Proof.Config

/-- REGION_SIZE (R4). -/
def regionSize : Nat := 0x10000
/-- SEG_R_ADDR (R4). -/
def segRAddr : Nat := 0x0010
/-- SEG_L_ADDR (R4). -/
def segLAddr : Nat := 0x0011
/-- WORD_BYTES (R4). -/
def wordBytes : Nat := 4
/-- RGB_BASE (R4). -/
def rgbBase : Nat := 0x4000
/-- RGB_WORDS (R4): the logical words of the RGB buffer. -/
def rgbWords : Nat := 1024
/-- MONO_BASE (R4). -/
def monoBase : Nat := 0x8000
/-- MONO_WORDS (R4): the logical words of the monochrome buffer. -/
def monoWords : Nat := 32
/-- GUARD_WORDS (R4), per buffer. -/
def guardWords : Nat := 2
/-- MAX_W (R4): the widest access in bytes. -/
def maxWidth : Nat := 8
/-- SCHEMA_VERSION (R4, R154): fixed, and not carried in the saved image. -/
def schemaVersion : Nat := 0
/-- RGB_BYTES (R5): the logical region's size in bytes. -/
def rgbBytes : Nat := rgbWords * wordBytes
/-- MONO_BYTES (R5): the logical region's size in bytes. -/
def monoBytes : Nat := monoWords * wordBytes
/-- The RGB allocation in bytes, guard words included (R5: 4104). -/
def rgbAlloc : Nat := (rgbWords + guardWords) * wordBytes
/-- The monochrome allocation in bytes, guard words included (R5: 136). -/
def monoAlloc : Nat := (monoWords + guardWords) * wordBytes

/-! The value of every state element between power-on and the first RESET is unspecified (R34): free values.
They are constants with no body, so nothing can be proved of them (log entry 3). -/

/-- SEG_R before the first RESET: unspecified (R34), free value. -/
opaque powerOnSegR : Byte
/-- SEG_L before the first RESET: unspecified (R34), free value. -/
opaque powerOnSegL : Byte
/-- Byte k of the RGB byte view before the first RESET: unspecified (R34), free value. -/
opaque powerOnRgbByte : Nat → Byte
/-- Byte k of the monochrome byte view before the first RESET: unspecified (R34), free value. -/
opaque powerOnMonoByte : Nat → Byte
/-- DIRTY_BG before the first RESET: unspecified (R34), free value. -/
opaque powerOnDirtyBg : Bool
/-- DIRTY_DISP before the first RESET: unspecified (R34), free value. -/
opaque powerOnDirtyDisp : Bool
/-- RDATA before the first command has ended: no rule gives it a value (R80, R88), free value. -/
opaque powerOnRdata : Data

end Sys2Proof.Config
end

