-- ==== Sys2Proof/Syntax.lean ====
section
/-! DEFINITION. The commands of the block as terms: one constructor of Instr for each row of opcode_table.json
(30_encoding.md R89), and a command as it stands on the command port (R80). -/

namespace Sys2Proof

/-- The access sizes of R83: byte, half, word, double word. -/
inductive Size where
  | b | h | w | d
deriving DecidableEq, Repr

/-- What the initiator presents for one step: a command word and its write data (R80). -/
structure Command where
  /-- CMD, the 24-bit command word (R81). -/
  cmd : CmdWord
  /-- WDATA, the 64-bit write data (R87). -/
  wdata : Data
deriving DecidableEq, Repr

/-- The commands, split by target as opcode_table.json splits them. An RGB offset is 12 bits and a monochrome
offset 7 bits, the `a` bits of the row's pattern. WDATA is an operand of WRITE and of RESTORE (R130, R155); the other
commands ignore it (R87). -/
inductive Instr where
  /-- NOP (R150). -/
  | nop
  /-- READ.SEGR (R111). -/
  | readSegR (size : Size)
  /-- READ.SEGL (R112). -/
  | readSegL (size : Size)
  /-- READ.RGB (R113); off = ADDR - 0x4000. -/
  | readRgb (size : Size) (off : BitVec 12)
  /-- READ.MONO (R114); off = ADDR - 0x8000. -/
  | readMono (size : Size) (off : BitVec 7)
  /-- READ.UNMAPPED (R115). -/
  | readUnmapped (size : Size) (addr : Offset)
  /-- WRITE.SEGR (R131). -/
  | writeSegR (size : Size) (v : Data)
  /-- WRITE.SEGL (R132). -/
  | writeSegL (size : Size) (v : Data)
  /-- WRITE.RGB (R133); off = ADDR - 0x4000. -/
  | writeRgb (size : Size) (off : BitVec 12) (v : Data)
  /-- WRITE.MONO (R134); off = ADDR - 0x8000. -/
  | writeMono (size : Size) (off : BitVec 7) (v : Data)
  /-- WRITE.UNMAPPED (R135). -/
  | writeUnmapped (size : Size) (addr : Offset) (v : Data)
  /-- RESET (R151). -/
  | reset
  /-- INVALIDATE (R152). -/
  | invalidate
  /-- FRAME_DONE (R153). -/
  | frameDone
  /-- SAVE (R154). -/
  | save
  /-- RESTORE (R155); image is WDATA. -/
  | restore (image : Data)
deriving DecidableEq, Repr

end Sys2Proof
end

