-- ==== Sys2Proof/WellFormed.lean ====
section
/-! DEFINITION. The terms that some command word encodes. The ranges are those R115 lists for an unmapped start
address; Decode.lean selects a target by R52's comparisons and R89's masks instead. -/

namespace Sys2Proof

/-- The start addresses that select no target, as the list of R115 (and the map of R51) gives them. -/
def Offset.unmapped (a : Offset) : Bool :=
  (a.toNat ≤ 0x000F)
    || (0x0012 ≤ a.toNat && a.toNat ≤ 0x3FFF)
    || (0x5000 ≤ a.toNat && a.toNat ≤ 0x7FFF)
    || (0x8080 ≤ a.toNat && a.toNat ≤ 0xFFFF)

/-- Only the two unmapped rows can be written with an operand that no word of theirs encodes. -/
def Instr.wellFormed : Instr → Bool
  | .nop => true
  | .readSegR _ => true
  | .readSegL _ => true
  | .readRgb _ _ => true
  | .readMono _ _ => true
  | .readUnmapped _ addr => addr.unmapped
  | .writeSegR _ _ => true
  | .writeSegL _ _ => true
  | .writeRgb _ _ _ => true
  | .writeMono _ _ _ => true
  | .writeUnmapped _ addr _ => addr.unmapped
  | .reset => true
  | .invalidate => true
  | .frameDone => true
  | .save => true
  | .restore _ => true

end Sys2Proof
end

