-- ==== Sys2Proof/Decode.lean ====
section
/-! DEFINITION. Decoding and encoding of command words (30_encoding.md), and the address decode of 20_memory.md
R52. Decoding is total on every 24-bit word (R89); a word without a meaning is rejected by name. -/

namespace Sys2Proof

/-- Why a command word has no meaning. The port answers both with the refusal `reserved` (R192). -/
inductive DecodeError where
  /-- RSV is not 000 (R85, row 1 of R89). -/
  | rsvNotZero
  /-- A NOP, RESET, INVALIDATE, FRAME_DONE, SAVE or RESTORE word with SIZE or ADDR not zero (R86, row 18). -/
  | operandNotZero
deriving DecidableEq, Repr

/-- What a start address selects (R52). -/
inductive Target where
  | segR | segL | rgb | mono | unmapped
deriving DecidableEq, Repr

/-! ### Fields (R81, R83) -/

/-- w = 1 << SIZE, the access width in bytes (R83). -/
def Size.bytes : Size → Nat
  | .b => 1
  | .h => 2
  | .w => 4
  | .d => 8

/-- The SIZE code of a width (R83). -/
def Size.code : Size → BitVec 2
  | .b => 0b00#2
  | .h => 0b01#2
  | .w => 0b10#2
  | .d => 0b11#2

/-- The width a SIZE code stands for (R83). -/
def Size.ofCode (c : BitVec 2) : Size :=
  if c = 0b00#2 then .b else if c = 0b01#2 then .h else if c = 0b10#2 then .w else .d

/-- OP, bits [23:21] (R81). -/
def opField (cmd : CmdWord) : BitVec 3 := cmd.extractLsb' 21 3
/-- RSV, bits [20:18] (R81). -/
def rsvField (cmd : CmdWord) : BitVec 3 := cmd.extractLsb' 18 3
/-- SIZE, bits [17:16] (R81). -/
def sizeField (cmd : CmdWord) : BitVec 2 := cmd.extractLsb' 16 2
/-- ADDR, bits [15:0] (R81). -/
def addrField (cmd : CmdWord) : Offset := cmd.extractLsb' 0 16

/-- The width a command word names (R83). -/
def accessSize (cmd : CmdWord) : Size := Size.ofCode (sizeField cmd)

/-- The command word of four fields, OP the most significant (R81). -/
def pack (op : BitVec 3) (rsv : BitVec 3) (size : BitVec 2) (addr : Offset) : CmdWord :=
  ((op ++ rsv) ++ size) ++ addr

/-! ### The address decode (R52, R84) -/

/-- Target(ADDR), first match wins; the width takes no part (R52). -/
def targetOf (a : Offset) : Target :=
  if a = 0x0010#16 then .segR
  else if a = 0x0011#16 then .segL
  else if 0x4000 ≤ a.toNat ∧ a.toNat < 0x5000 then .rgb
  else if 0x8000 ≤ a.toNat ∧ a.toNat < 0x8080 then .mono
  else .unmapped

/-- off = ADDR - 0x4000 (R84, R113). -/
def rgbOffset (a : Offset) : BitVec 12 := (a - 0x4000#16).setWidth 12

/-- off = ADDR - 0x8000 (R84, R114). -/
def monoOffset (a : Offset) : BitVec 7 := (a - 0x8000#16).setWidth 7

/-- ADDR of a start byte of the RGB region (R113): the pattern 0100aaaaaaaaaaaa of its row. -/
def rgbAddr (off : BitVec 12) : Offset := 0x4#4 ++ off

/-- ADDR of a start byte of the monochrome region (R114): the pattern 100000000aaaaaaa of its row. -/
def monoAddr (off : BitVec 7) : Offset := 0x100#9 ++ off

/-! ### The decoder, row by row (R89) -/

/-- The decoder of R89: the first row that matches names the command. Row 1 refuses a reserved field, the
lines that follow are rows 2 to 17 in order with the table's own mask and match, and the last line is row 18. -/
def decodeWord (cmd : CmdWord) (v : Data) : Except DecodeError Instr :=
  if cmd &&& 0x1C0000#24 ≠ 0#24 then .error .rsvNotZero
  else if cmd &&& 0xFFFFFF#24 = 0x000000#24 then .ok .nop
  else if cmd &&& 0xFCFFFF#24 = 0x200010#24 then .ok (.readSegR (accessSize cmd))
  else if cmd &&& 0xFCFFFF#24 = 0x200011#24 then .ok (.readSegL (accessSize cmd))
  else if cmd &&& 0xFCF000#24 = 0x204000#24 then .ok (.readRgb (accessSize cmd) (cmd.extractLsb' 0 12))
  else if cmd &&& 0xFCFF80#24 = 0x208000#24 then .ok (.readMono (accessSize cmd) (cmd.extractLsb' 0 7))
  else if cmd &&& 0xFC0000#24 = 0x200000#24 then .ok (.readUnmapped (accessSize cmd) (addrField cmd))
  else if cmd &&& 0xFCFFFF#24 = 0x400010#24 then .ok (.writeSegR (accessSize cmd) v)
  else if cmd &&& 0xFCFFFF#24 = 0x400011#24 then .ok (.writeSegL (accessSize cmd) v)
  else if cmd &&& 0xFCF000#24 = 0x404000#24 then
    .ok (.writeRgb (accessSize cmd) (cmd.extractLsb' 0 12) v)
  else if cmd &&& 0xFCFF80#24 = 0x408000#24 then
    .ok (.writeMono (accessSize cmd) (cmd.extractLsb' 0 7) v)
  else if cmd &&& 0xFC0000#24 = 0x400000#24 then
    .ok (.writeUnmapped (accessSize cmd) (addrField cmd) v)
  else if cmd &&& 0xFFFFFF#24 = 0x600000#24 then .ok .reset
  else if cmd &&& 0xFFFFFF#24 = 0x800000#24 then .ok .invalidate
  else if cmd &&& 0xFFFFFF#24 = 0xA00000#24 then .ok .frameDone
  else if cmd &&& 0xFFFFFF#24 = 0xC00000#24 then .ok .save
  else if cmd &&& 0xFFFFFF#24 = 0xE00000#24 then .ok (.restore v)
  else .error .operandNotZero

/-- The command at the port as an instruction, or why it has no meaning (R89). -/
def decode (c : Command) : Except DecodeError Instr := decodeWord c.cmd c.wdata

/-! ### The decoder, field by field (R81 to R86 with R52)

A second reading of the same rules: the operation from OP, then the target from ADDR. R89 says that its masks are
this split written as encodings. -/

/-- READ with its target chosen by the start address (R110, R52). -/
def readInstr (size : Size) (a : Offset) : Instr :=
  match targetOf a with
  | .segR => .readSegR size
  | .segL => .readSegL size
  | .rgb => .readRgb size (rgbOffset a)
  | .mono => .readMono size (monoOffset a)
  | .unmapped => .readUnmapped size a

/-- WRITE with its target chosen by the start address (R130, R52). -/
def writeInstr (size : Size) (a : Offset) (v : Data) : Instr :=
  match targetOf a with
  | .segR => .writeSegR size v
  | .segL => .writeSegL size v
  | .rgb => .writeRgb size (rgbOffset a) v
  | .mono => .writeMono size (monoOffset a) v
  | .unmapped => .writeUnmapped size a v

/-- A command that takes no SIZE and no ADDR has one word (R86). -/
def bareInstr (cmd : CmdWord) (i : Instr) : Except DecodeError Instr :=
  if sizeField cmd = 0#2 ∧ addrField cmd = 0#16 then .ok i else .error .operandNotZero

/-- Decoding by the fields of R81 and the OP values of R82. -/
def decodeFields (cmd : CmdWord) (v : Data) : Except DecodeError Instr :=
  if rsvField cmd ≠ 0#3 then .error .rsvNotZero
  else if opField cmd = 0b000#3 then bareInstr cmd .nop
  else if opField cmd = 0b001#3 then .ok (readInstr (accessSize cmd) (addrField cmd))
  else if opField cmd = 0b010#3 then .ok (writeInstr (accessSize cmd) (addrField cmd) v)
  else if opField cmd = 0b011#3 then bareInstr cmd .reset
  else if opField cmd = 0b100#3 then bareInstr cmd .invalidate
  else if opField cmd = 0b101#3 then bareInstr cmd .frameDone
  else if opField cmd = 0b110#3 then bareInstr cmd .save
  else bareInstr cmd (.restore v)

/-- The command at the port decoded field by field. -/
def decodeByFields (c : Command) : Except DecodeError Instr := decodeFields c.cmd c.wdata

/-! ### The encoder (R81 to R84, R92) -/

/-- OP of a command (R82). -/
def Instr.op : Instr → BitVec 3
  | .nop => 0b000#3
  | .readSegR _ => 0b001#3
  | .readSegL _ => 0b001#3
  | .readRgb _ _ => 0b001#3
  | .readMono _ _ => 0b001#3
  | .readUnmapped _ _ => 0b001#3
  | .writeSegR _ _ => 0b010#3
  | .writeSegL _ _ => 0b010#3
  | .writeRgb _ _ _ => 0b010#3
  | .writeMono _ _ _ => 0b010#3
  | .writeUnmapped _ _ _ => 0b010#3
  | .reset => 0b011#3
  | .invalidate => 0b100#3
  | .frameDone => 0b101#3
  | .save => 0b110#3
  | .restore _ => 0b111#3

/-- SIZE of a command, zero where it takes none (R82, R83, R86). -/
def Instr.sizeCode : Instr → BitVec 2
  | .nop => 0#2
  | .readSegR size => size.code
  | .readSegL size => size.code
  | .readRgb size _ => size.code
  | .readMono size _ => size.code
  | .readUnmapped size _ => size.code
  | .writeSegR size _ => size.code
  | .writeSegL size _ => size.code
  | .writeRgb size _ _ => size.code
  | .writeMono size _ _ => size.code
  | .writeUnmapped size _ _ => size.code
  | .reset => 0#2
  | .invalidate => 0#2
  | .frameDone => 0#2
  | .save => 0#2
  | .restore _ => 0#2

/-- ADDR of a command, zero where it takes none (R84, R86). -/
def Instr.startAddr : Instr → Offset
  | .nop => 0#16
  | .readSegR _ => 0x0010#16
  | .readSegL _ => 0x0011#16
  | .readRgb _ off => rgbAddr off
  | .readMono _ off => monoAddr off
  | .readUnmapped _ addr => addr
  | .writeSegR _ _ => 0x0010#16
  | .writeSegL _ _ => 0x0011#16
  | .writeRgb _ off _ => rgbAddr off
  | .writeMono _ off _ => monoAddr off
  | .writeUnmapped _ addr _ => addr
  | .reset => 0#16
  | .invalidate => 0#16
  | .frameDone => 0#16
  | .save => 0#16
  | .restore _ => 0#16

/-- WDATA of a command, zero where it ignores it, as the assembler of R92 presents it. -/
def Instr.writeData : Instr → Data
  | .nop => 0#64
  | .readSegR _ => 0#64
  | .readSegL _ => 0#64
  | .readRgb _ _ => 0#64
  | .readMono _ _ => 0#64
  | .readUnmapped _ _ => 0#64
  | .writeSegR _ v => v
  | .writeSegL _ v => v
  | .writeRgb _ _ v => v
  | .writeMono _ _ v => v
  | .writeUnmapped _ _ v => v
  | .reset => 0#64
  | .invalidate => 0#64
  | .frameDone => 0#64
  | .save => 0#64
  | .restore image => image

/-- Whether a command uses WDATA (R82, R87). -/
def Instr.usesWdata : Instr → Bool
  | .nop => false
  | .readSegR _ => false
  | .readSegL _ => false
  | .readRgb _ _ => false
  | .readMono _ _ => false
  | .readUnmapped _ _ => false
  | .writeSegR _ _ => true
  | .writeSegL _ _ => true
  | .writeRgb _ _ _ => true
  | .writeMono _ _ _ => true
  | .writeUnmapped _ _ _ => true
  | .reset => false
  | .invalidate => false
  | .frameDone => false
  | .save => false
  | .restore _ => true

/-- A READ command (R82, R110). -/
def Instr.isRead (i : Instr) : Bool := i.op = 0b001#3

/-- A WRITE command (R82, R130). -/
def Instr.isWrite (i : Instr) : Bool := i.op = 0b010#3

/-- The command word and write data of a command: RSV is 000 in every one (R81, R85). -/
def encode (i : Instr) : Command :=
  { cmd := pack i.op 0#3 i.sizeCode i.startAddr, wdata := i.writeData }

/-! ### The rows of opcode_table.json -/

/-- The mask of a command's row (opcode_table.json, R89). -/
def Instr.rowMask : Instr → CmdWord
  | .nop => 0xFFFFFF#24
  | .readSegR _ => 0xFCFFFF#24
  | .readSegL _ => 0xFCFFFF#24
  | .readRgb _ _ => 0xFCF000#24
  | .readMono _ _ => 0xFCFF80#24
  | .readUnmapped _ _ => 0xFC0000#24
  | .writeSegR _ _ => 0xFCFFFF#24
  | .writeSegL _ _ => 0xFCFFFF#24
  | .writeRgb _ _ _ => 0xFCF000#24
  | .writeMono _ _ _ => 0xFCFF80#24
  | .writeUnmapped _ _ _ => 0xFC0000#24
  | .reset => 0xFFFFFF#24
  | .invalidate => 0xFFFFFF#24
  | .frameDone => 0xFFFFFF#24
  | .save => 0xFFFFFF#24
  | .restore _ => 0xFFFFFF#24

/-- The match value of a command's row (opcode_table.json, R89). -/
def Instr.rowMatch : Instr → CmdWord
  | .nop => 0x000000#24
  | .readSegR _ => 0x200010#24
  | .readSegL _ => 0x200011#24
  | .readRgb _ _ => 0x204000#24
  | .readMono _ _ => 0x208000#24
  | .readUnmapped _ _ => 0x200000#24
  | .writeSegR _ _ => 0x400010#24
  | .writeSegL _ _ => 0x400011#24
  | .writeRgb _ _ _ => 0x404000#24
  | .writeMono _ _ _ => 0x408000#24
  | .writeUnmapped _ _ _ => 0x400000#24
  | .reset => 0x600000#24
  | .invalidate => 0x800000#24
  | .frameDone => 0xA00000#24
  | .save => 0xC00000#24
  | .restore _ => 0xE00000#24

/-! ### A table word as a command -/

/-- The command of an instruction word w of nbits bits, numbered as opcode_table.json numbers them: CMD is bits
[23:0] and WDATA the 64 bits above it; every bit above nbits is 0 (DESIGN CHOICE, log entry 7). -/
def commandOfTableWord (nbits w : Nat) : Command :=
  let word := w % 2 ^ nbits
  { cmd := BitVec.ofNat 24 word, wdata := BitVec.ofNat 64 (word / 2 ^ 24) }

/-- The instruction the decoder reads from a table word, none where it refuses. -/
def decodeTableWord (nbits w : Nat) : Option Instr :=
  match decode (commandOfTableWord nbits w) with
  | .ok i => some i
  | .error _ => none

end Sys2Proof
end

