-- ==== Sys2Proof/Machine/State.lean ====
section
/-! DEFINITION. The state of the block (10_state.md), the events at its command port, and the reasons a step can
stop. Everything is plain data. -/

namespace Sys2Proof.Machine

/-- The bytes of one buffer: pairs of an index of the byte view (R53) and its byte, indexes strictly rising,
and no entry for a byte that holds 0x00, which is what an index without an entry reads as (the reset contents of R35;
DESIGN CHOICE of representation, log entry 6). -/
abbrev Memory := List Host.Cell

/-- The block raises no exception and has no fault output (60_exceptions.md R190), so there is no fault: nobody
raises one, and having none is neither safe nor unsafe (log entry 17). -/
inductive Fault where
deriving DecidableEq, Repr

/-- The reasons of R192, and the host's own word for an arm without a meaning. -/
inductive Refusal where
  /-- An arm of exec that has no meaning yet; no arm answers it. Safe: nothing follows from a stop. -/
  | notModelled (mnemonic : String)
  /-- Every command but RESET before the first RESET (R34, R192). Safe: the spec refuses it. -/
  | uninitialised
  /-- The port, for a command word with RSV not 000, or with SIZE or ADDR not zero on a command that takes none (R85,
  R86, R192). Safe: the spec refuses it. -/
  | reserved
  /-- RESTORE, for an image with a bit set in WDATA[15:8], [31:24] or [63:32] (R155, R192). Safe: the spec refuses it. -/
  | restoreRange
  /-- The port, for an instruction fetch directed at the block (R68, R192). Safe: the spec refuses it. -/
  | fetch
  /-- The port, for more than one command in one step (R193, R192). Safe: the spec refuses it. -/
  | concurrent
deriving DecidableEq, Repr

/-- What the outside can present at the command port for one step. -/
inductive PortEvent where
  /-- One command (R80). -/
  | command (c : Command)
  /-- Two or more commands in one step, which is outside the interface (R193). -/
  | commands (first second : Command) (more : List Command)
  /-- An instruction fetch directed at the block (R68). -/
  | fetch (addr : Offset)
deriving DecidableEq, Repr

/-- The state of R20, the port's read data (R88), the two bookkeeping marks of R36, and what is still to be presented
at the port. -/
structure State where
  /-- SEG_R, the right digit (R21). -/
  segR : Byte
  /-- SEG_L, the left digit (R22). -/
  segL : Byte
  /-- RGB[0..1025] as its byte view (R25, R53). -/
  rgb : Memory
  /-- MONO[0..33] as its byte view (R27, R53). -/
  mono : Memory
  /-- DIRTY_BG (R32). -/
  dirtyBg : Bool
  /-- DIRTY_DISP (R32). -/
  dirtyDisp : Bool
  /-- RDATA, as the last completed command left it (R80, R88; DESIGN CHOICE, log entry 2). -/
  rdata : Data
  /-- Whether a RESET has been performed (R36). -/
  initialised : Bool
  /-- The refusal mark with its reason (R36, R192; DEDUCED, log entry 4). -/
  refusedMark : Option Refusal
  /-- The model's own field: what the initiator has still to present, oldest first (DESIGN CHOICE, log entry 1). -/
  pending : List PortEvent
deriving DecidableEq, Repr

/-- ResetState (R35), with the read data RESET drives (R151), the bookkeeping after it (R36), and nothing presented. -/
def State.reset : State :=
  { segR := 0#8
    segL := 0#8
    rgb := []
    mono := []
    dirtyBg := true
    dirtyDisp := true
    rdata := 0#64
    initialised := true
    refusedMark := none
    pending := [] }

end Sys2Proof.Machine
end

