-- ==== Sys2Proof/Machine/Ops.lean ====
section
/-! DEFINITION. The shared operations: one byte of a buffer, the port's answer, the checks before a command, the
power-on state and the refusal mark. The block takes no exception and has none to return from (R190, R194). -/

namespace Sys2Proof.Machine

/-! ### One byte of a buffer (R53) -/

/-- Byte k of a byte view; an index without an entry holds 0x00 (R35). -/
def Memory.read : Memory → Nat → Byte
  | [], _ => 0#8
  | (a, x) :: rest, k => if a = k then x else Memory.read rest k

/-- The entry of a byte, none for 0x00, before the rest of the entries. -/
def Memory.entry (k : Nat) (b : Byte) (rest : Memory) : Memory :=
  if b = 0#8 then rest else (k, b) :: rest

/-- Writing byte k of a view writes those 8 bits and no other (R53); the entries stay in the one canonical form. -/
def Memory.write : Memory → Nat → Byte → Memory
  | [], k, b => Memory.entry k b []
  | (a, x) :: rest, k, b =>
    if k < a then Memory.entry k b ((a, x) :: rest)
    else if k = a then Memory.entry k b rest
    else (a, x) :: Memory.write rest k b

/-- Every word of a buffer at 0x00000000 (R151, R155). -/
def Memory.zeroed : Memory := []

/-- The view whose byte k is `f k`, for every k below n. -/
def Memory.fill (f : Nat → Byte) : Nat → Memory
  | 0 => Memory.zeroed
  | n + 1 => Memory.write (Memory.fill f n) n (f n)

/-- The same view, irreducible: it stands for thousands of writes of unspecified bytes, which nothing evaluates. -/
@[irreducible] def Memory.ofBytes (f : Nat → Byte) (n : Nat) : Memory := Memory.fill f n

/-- The canonical form: every index is above `low`, indexes strictly rise, no entry holds 0x00. -/
def Memory.wfAbove : Nat → Memory → Bool
  | _, [] => true
  | low, (a, x) :: rest => decide (low ≤ a) && decide (x ≠ 0#8) && Memory.wfAbove (a + 1) rest

/-- The canonical form of a buffer's entries. -/
def Memory.wf (m : Memory) : Bool := Memory.wfAbove 0 m

/-- Every entry lies in an allocation of n bytes (R57). -/
def Memory.within (n : Nat) (m : Memory) : Bool := m.all fun cell => decide (cell.1 < n)

/-! ### The port's answer (R88) -/

/-- RDATA <- v. -/
def State.respond (s : State) (v : Data) : State := { s with rdata := v }

/-- The next event is taken from the port. -/
def State.takeEvent (s : State) (rest : List PortEvent) : State := { s with pending := rest }

/-! ### Storage -/

/-- Both segment registers. -/
def State.setSegs (s : State) (r l : Byte) : State := { s with segR := r, segL := l }

/-- The RGB buffer. -/
def State.setRgb (s : State) (m : Memory) : State := { s with rgb := m }

/-- The monochrome buffer. -/
def State.setMono (s : State) (m : Memory) : State := { s with mono := m }

/-- Every word of both buffers zero, guard words included (R151, R155). -/
def State.clearBuffers (s : State) : State :=
  { s with rgb := Memory.zeroed, mono := Memory.zeroed }

/-! ### The check before a command, and the first RESET (R34, R36) -/

/-- A command other than RESET has its effect only after the first RESET; before it, it is refused (R34). -/
def whenInitialised (s : State) (t : State) : Host.Outcome State Fault Refusal :=
  if s.initialised then .next t else .refused .uninitialised

/-- The `initialised` flag, set by RESET and never cleared (R36). -/
def State.boot (s : State) : State := { s with initialised := true }

/-- The block between power-on and its first RESET: every element unspecified (R34), every command but RESET
refused, no command refused so far, with the given events to come. -/
def State.powerOn (events : List PortEvent) : State :=
  { segR := Config.powerOnSegR
    segL := Config.powerOnSegL
    rgb := Memory.ofBytes Config.powerOnRgbByte Config.rgbAlloc
    mono := Memory.ofBytes Config.powerOnMonoByte Config.monoAlloc
    dirtyBg := Config.powerOnDirtyBg
    dirtyDisp := Config.powerOnDirtyDisp
    rdata := Config.powerOnRdata
    initialised := false
    refusedMark := none
    pending := events }

/-! ### Refusal (R36, R192) -/

/-- What a refused command leaves: no state changed, RDATA = 0, and the refusal mark with its reason (R192). -/
def State.afterRefusal (s : State) (r : Refusal) : State :=
  { s with rdata := 0#64, refusedMark := some r }

/-- The state the block's ports show at the end of a step, a refused step included. -/
def State.settle (s : State) : Host.Outcome State Fault Refusal → State
  | .next t => t
  | .fault f => nomatch f
  | .refused r => s.afterRefusal r

end Sys2Proof.Machine
end

