-- ==== Sys2Proof/Machine/Operands.lean ====
section
/-! DEFINITION. The operand forms: the byte-array access primitives (20_memory.md R55, R56), the words they are
equal to, the segment registers as bus values, and the saved image. -/

namespace Sys2Proof.Machine

/-! ### Bytes and words -/

/-- v[8i+7 : 8i], byte i of a bus value, byte 0 the least significant (R54, R56). -/
def byteOf (v : Data) (i : Nat) : Byte := v.extractLsb' (8 * i) 8

/-- Word i of a buffer: byte j of the word is bits [8j+7 : 8j] and is byte 4i + j of the view (R53). -/
def wordAt (m : Memory) (i : Nat) : Word32 :=
  m.read (4 * i + 3) ++ m.read (4 * i + 2) ++ m.read (4 * i + 1) ++ m.read (4 * i)

/-- A[i] <- v: the four bytes of word i, and no other. -/
def setWord (m : Memory) (i : Nat) (v : Word32) : Memory :=
  (((m.write (4 * i) (v.extractLsb' 0 8)).write (4 * i + 1) (v.extractLsb' 8 8)).write (4 * i + 2)
    (v.extractLsb' 16 8)).write (4 * i + 3) (v.extractLsb' 24 8)

/-- RGB[i] (R25). -/
def State.rgbWord (s : State) (i : Nat) : Word32 := wordAt s.rgb i

/-- MONO[i] (R27). -/
def State.monoWord (s : State) (i : Nat) : Word32 := wordAt s.mono i

/-! ### Region access (R55, R56) -/

/-- RegionRead(view, off, w): the loop of R55, byte by byte. -/
def regionRead (m : Memory) (off : Nat) : Nat → Data
  | 0 => 0#64
  | n + 1 => regionRead m off n ||| ((m.read (off + n)).setWidth 64 <<< (8 * n))

/-- RegionWrite(view, off, w, v): the loop of R56, byte by byte. -/
def regionWrite (m : Memory) (off : Nat) (v : Data) : Nat → Memory
  | 0 => m
  | n + 1 => (regionWrite m off v n).write (off + n) (byteOf v n)

/-- W = A[k+2] ++ A[k+1] ++ A[k], the 96-bit window of R55. -/
def window (m : Memory) (k : Nat) : BitVec 96 :=
  wordAt m (k + 2) ++ wordAt m (k + 1) ++ wordAt m k

/-- The word-level form of R55: (W >> 8b)[8w-1:0] zero-extended to 64 bits. -/
def windowRead (m : Memory) (off w : Nat) : Data :=
  ((window m (off / 4) >>> (8 * (off % 4))).setWidth (8 * w)).setWidth 64

/-- The byte mask M = zext_96(2^(8w) - 1) << 8b of R56. -/
def windowMask (off w : Nat) : BitVec 96 := BitVec.ofNat 96 (2 ^ (8 * w) - 1) <<< (8 * (off % 4))

/-- The new window W' = (W & ~M) | ((zext_96(v[8w-1:0]) << 8b) & M) of R56. -/
def windowMerge (m : Memory) (off w : Nat) (v : Data) : BitVec 96 :=
  (window m (off / 4) &&& ~~~ windowMask off w)
    ||| ((((v.setWidth (8 * w)).setWidth 96) <<< (8 * (off % 4))) &&& windowMask off w)

/-- The word-level form of R56: A[k], A[k+1] and A[k+2] from the new window. -/
def windowWrite (m : Memory) (off w : Nat) (v : Data) : Memory :=
  let k := off / 4
  let merged := windowMerge m off w v
  setWord (setWord (setWord m k (merged.extractLsb' 0 32)) (k + 1) (merged.extractLsb' 32 32)) (k + 2)
    (merged.extractLsb' 64 32)

/-! ### The segment registers on the bus (R111, R112, R131, R132) -/

/-- The value READ drives at 0x0010: SEG_R alone at width 1, right | (left << 8) at the other widths (R111). -/
def segRValue (size : Size) (s : State) : Data :=
  match size with
  | .b => s.segR.setWidth 64
  | .h => (s.segL ++ s.segR).setWidth 64
  | .w => (s.segL ++ s.segR).setWidth 64
  | .d => (s.segL ++ s.segR).setWidth 64

/-- The value READ drives at 0x0011: SEG_L at every width (R112). -/
def segLValue (size : Size) (s : State) : Data :=
  match size with
  | .b => s.segL.setWidth 64
  | .h => s.segL.setWidth 64
  | .w => s.segL.setWidth 64
  | .d => s.segL.setWidth 64

/-- WRITE at 0x0010: SEG_R at width 1, both registers at the other widths (R131). -/
def State.storeSegR (s : State) (size : Size) (v : Data) : State :=
  match size with
  | .b => s.setSegs (byteOf v 0) s.segL
  | .h => s.setSegs (byteOf v 0) (byteOf v 1)
  | .w => s.setSegs (byteOf v 0) (byteOf v 1)
  | .d => s.setSegs (byteOf v 0) (byteOf v 1)

/-- WRITE at 0x0011: SEG_L from v[7:0] at every width, SEG_R never (R132). -/
def State.storeSegL (s : State) (size : Size) (v : Data) : State :=
  match size with
  | .b => s.setSegs s.segR (byteOf v 0)
  | .h => s.setSegs s.segR (byteOf v 0)
  | .w => s.setSegs s.segR (byteOf v 0)
  | .d => s.setSegs s.segR (byteOf v 0)

/-! ### The saved image (R154, R155) -/

/-- The image SAVE drives: [15:0] segment_left, [31:16] segment_right, [63:32] zero (R154). -/
def State.savedImage (s : State) : Data :=
  0#32 ++ (s.segR.setWidth 16 ++ s.segL.setWidth 16)

/-- Whether RESTORE accepts an image: [15:8], [31:24] and [63:32] all zero (R155). -/
def imageInRange (image : Data) : Bool :=
  image.extractLsb' 8 8 = 0#8 && image.extractLsb' 24 8 = 0#8 && image.extractLsb' 32 32 = 0#32

/-- segment_right of an image, WDATA[23:16] (R155). -/
def imageRight (image : Data) : Byte := image.extractLsb' 16 8

/-- segment_left of an image, WDATA[7:0] (R155). -/
def imageLeft (image : Data) : Byte := image.extractLsb' 0 8

end Sys2Proof.Machine
end

