-- ==== Sys2Proof/Machine/Flags.lean ====
section
/-! DEFINITION. The two dirty flags (10_state.md R32): what each command does to them. -/

namespace Sys2Proof.Machine

/-- DIRTY_DISP <- 1, DIRTY_BG unchanged: every WRITE (R130). -/
def State.markDisplay (s : State) : State := { s with dirtyDisp := true }

/-- Both flags set: RESET, INVALIDATE, RESTORE (R151, R152, R155). -/
def State.markAll (s : State) : State := { s with dirtyBg := true, dirtyDisp := true }

/-- Both flags cleared together: FRAME_DONE (R153). -/
def State.clearFlags (s : State) : State := { s with dirtyBg := false, dirtyDisp := false }

end Sys2Proof.Machine
end

