-- ==== Sys2Proof/Machine/BusRead.lean ====
section
/-! DEFINITION. The READ commands (40_bus_read.md): each drives RDATA and changes nothing else (R110). -/

namespace Sys2Proof.Machine

/-- READ.SEGR (R111). -/
def execReadSegR (size : Size) (s : State) : Host.Outcome State Fault Refusal :=
  whenInitialised s (s.respond (segRValue size s))

/-- READ.SEGL (R112). -/
def execReadSegL (size : Size) (s : State) : Host.Outcome State Fault Refusal :=
  whenInitialised s (s.respond (segLValue size s))

/-- READ.RGB (R113). -/
def execReadRgb (size : Size) (off : BitVec 12) (s : State) : Host.Outcome State Fault Refusal :=
  whenInitialised s (s.respond (regionRead s.rgb off.toNat size.bytes))

/-- READ.MONO (R114). -/
def execReadMono (size : Size) (off : BitVec 7) (s : State) : Host.Outcome State Fault Refusal :=
  whenInitialised s (s.respond (regionRead s.mono off.toNat size.bytes))

/-- READ.UNMAPPED (R115): zero at every width and every address without a target. -/
def execReadUnmapped (_size : Size) (_addr : Offset) (s : State) : Host.Outcome State Fault Refusal :=
  whenInitialised s (s.respond 0#64)

end Sys2Proof.Machine
end

