-- ==== Sys2Proof/Machine/BusWrite.lean ====
section
/-! DEFINITION. The WRITE commands (41_bus_write.md): each sets DIRTY_DISP (R130) and drives RDATA = 0 (R88). -/

namespace Sys2Proof.Machine

/-- WRITE.SEGR (R131). -/
def execWriteSegR (size : Size) (v : Data) (s : State) : Host.Outcome State Fault Refusal :=
  whenInitialised s (((s.storeSegR size v).markDisplay).respond 0#64)

/-- WRITE.SEGL (R132). -/
def execWriteSegL (size : Size) (v : Data) (s : State) : Host.Outcome State Fault Refusal :=
  whenInitialised s (((s.storeSegL size v).markDisplay).respond 0#64)

/-- WRITE.RGB (R133). -/
def execWriteRgb (size : Size) (off : BitVec 12) (v : Data) (s : State) :
    Host.Outcome State Fault Refusal :=
  whenInitialised s (((s.setRgb (regionWrite s.rgb off.toNat v size.bytes)).markDisplay).respond 0#64)

/-- WRITE.MONO (R134). -/
def execWriteMono (size : Size) (off : BitVec 7) (v : Data) (s : State) :
    Host.Outcome State Fault Refusal :=
  whenInitialised s (((s.setMono (regionWrite s.mono off.toNat v size.bytes)).markDisplay).respond 0#64)

/-- WRITE.UNMAPPED (R135): no storage changes, the flag is still set. -/
def execWriteUnmapped (_size : Size) (_addr : Offset) (_v : Data) (s : State) :
    Host.Outcome State Fault Refusal :=
  whenInitialised s (s.markDisplay.respond 0#64)

end Sys2Proof.Machine
end

