-- ==== Sys2Proof/Machine/Control.lean ====
section
/-! DEFINITION. The control and lifecycle commands (42_control.md). -/

namespace Sys2Proof.Machine

/-- NOP (R150): no state changes. -/
def execNop (s : State) : Host.Outcome State Fault Refusal :=
  whenInitialised s (s.respond 0#64)

/-- RESET (R151): accepted in every state; ResetState, and the block is initialised. -/
def execReset (s : State) : Host.Outcome State Fault Refusal :=
  .next (((((s.setSegs 0#8 0#8).clearBuffers).markAll).boot).respond 0#64)

/-- INVALIDATE (R152): both flags set, no storage changes. -/
def execInvalidate (s : State) : Host.Outcome State Fault Refusal :=
  whenInitialised s (s.markAll.respond 0#64)

/-- FRAME_DONE (R153): both flags cleared, whatever they were. -/
def execFrameDone (s : State) : Host.Outcome State Fault Refusal :=
  whenInitialised s (s.clearFlags.respond 0#64)

/-- SAVE (R154): the saved image, no state changes. -/
def execSave (s : State) : Host.Outcome State Fault Refusal :=
  whenInitialised s (s.respond s.savedImage)

/-- What an accepted RESTORE leaves (R155). -/
def State.restored (s : State) (image : Data) : State :=
  (((s.setSegs (imageRight image) (imageLeft image)).clearBuffers).markAll).respond 0#64

/-- RESTORE (R155): an image out of range is refused with no state change. -/
def execRestore (image : Data) (s : State) : Host.Outcome State Fault Refusal :=
  if imageInRange image then whenInitialised s (s.restored image)
  else if s.initialised then .refused .restoreRange
  else .refused .uninitialised

end Sys2Proof.Machine
end

