-- ==== Sys2Proof/Machine/Dispatch.lean ====
section
/-! DEFINITION. One arm per command (30_encoding.md R89, rows 2 to 17). -/

namespace Sys2Proof.Machine

def exec (i : Instr) (s : State) : Host.Outcome State Fault Refusal :=
  match i with
  | .nop => Sys2Proof.Machine.execNop s
  | .readSegR size => Sys2Proof.Machine.execReadSegR size s
  | .readSegL size => Sys2Proof.Machine.execReadSegL size s
  | .readRgb size off => Sys2Proof.Machine.execReadRgb size off s
  | .readMono size off => Sys2Proof.Machine.execReadMono size off s
  | .readUnmapped size addr => Sys2Proof.Machine.execReadUnmapped size addr s
  | .writeSegR size v => Sys2Proof.Machine.execWriteSegR size v s
  | .writeSegL size v => Sys2Proof.Machine.execWriteSegL size v s
  | .writeRgb size off v => Sys2Proof.Machine.execWriteRgb size off v s
  | .writeMono size off v => Sys2Proof.Machine.execWriteMono size off v s
  | .writeUnmapped size addr v => Sys2Proof.Machine.execWriteUnmapped size addr v s
  | .reset => Sys2Proof.Machine.execReset s
  | .invalidate => Sys2Proof.Machine.execInvalidate s
  | .frameDone => Sys2Proof.Machine.execFrameDone s
  | .save => Sys2Proof.Machine.execSave s
  | .restore image => Sys2Proof.Machine.execRestore image s

end Sys2Proof.Machine
end

