-- ==== Sys2Proof/Machine/Port.lean ====
section
/-! DEFINITION. What the command port does with what is presented to it (30_encoding.md R80; 60_exceptions.md
R192, R193). -/

namespace Sys2Proof.Machine

/-- One event at the port: a command with a meaning is performed; the rest is refused by its reason (R192). -/
def accept (e : PortEvent) (s : State) : Host.Outcome State Fault Refusal :=
  match e with
  | .command c =>
    match decode c with
    | .ok i => exec i s
    | .error _ => .refused .reserved
  | .commands _ _ _ => .refused .concurrent
  | .fetch _ => .refused .fetch

/-- A step with no operation is a NOP (R80; DEDUCED, log entry 1). -/
def idle (s : State) : Host.Outcome State Fault Refusal := exec .nop s

/-- Commands performed one after another, each on what the ones before it left (R64); the first refusal ends them. -/
def execAll : List Instr → State → Host.Outcome State Fault Refusal
  | [], s => .next s
  | i :: rest, s =>
    match exec i s with
    | .next t => execAll rest t
    | .fault f => .fault f
    | .refused r => .refused r

/-- The events of a stream of commands, one command per step (R64). -/
def streamOf (cs : List Command) : List PortEvent := cs.map PortEvent.command

end Sys2Proof.Machine
end

