-- ==== Sys2Proof/Machine/Step.lean ====
section
/-! DEFINITION. One step of the block: one command (00_scope.md R8; 20_memory.md R64). -/

namespace Sys2Proof.Machine

/-- A block with the refusal mark has stopped (R36, R192). Otherwise the oldest event presented is taken from the
port and performed; with nothing presented the step is a NOP (R80). -/
def step (s : State) : Host.Outcome State Fault Refusal :=
  match s.refusedMark with
  | some r => .refused r
  | none =>
    match s.pending with
    | [] => idle s
    | e :: rest => accept e (s.takeEvent rest)

/-- The command of a table word is the next one presented at the port (log entry 7). -/
def State.withFetchWord (s : State) (nbits w : Nat) : State :=
  { s with pending := PortEvent.command (commandOfTableWord nbits w) :: s.pending }

end Sys2Proof.Machine
end

