-- ==== Sys2Proof/Machine/Assembler.lean ====
section
/-! DEFINITION. The assembly language of 30_encoding.md R92, as lines of characters and as terms. What R92 leaves
open about the text is DESIGN CHOICE, log entry 9. -/

namespace Sys2Proof.Machine

/-- One line of R92, its numbers not yet checked against the fields. -/
inductive AsmLine where
  /-- RD.s a. -/
  | rd (size : Size) (a : Nat)
  /-- WR.s a, v. -/
  | wr (size : Size) (a v : Nat)
  | nop | reset | inval | fdone | save
  /-- RESTORE v. -/
  | restore (v : Nat)
deriving DecidableEq, Repr

/-- An address above 0xFFFF is rejected, not truncated (R92). -/
def asmAddr (a : Nat) : Option Offset := if a < 2 ^ 16 then some (BitVec.ofNat 16 a) else none

/-- A value must fit WDATA (R87); one with bits above 8w set is accepted (R92). -/
def asmValue (v : Nat) : Option Data := if v < 2 ^ 64 then some (BitVec.ofNat 64 v) else none

/-- CMD and WDATA of a line (R92). -/
def assemble : AsmLine → Option Command
  | .rd size a => do
    let a ← asmAddr a
    some ⟨0x200000#24 ||| (size.code.setWidth 24 <<< 16) ||| a.setWidth 24, 0#64⟩
  | .wr size a v => do
    let a ← asmAddr a
    let v ← asmValue v
    some ⟨0x400000#24 ||| (size.code.setWidth 24 <<< 16) ||| a.setWidth 24, v⟩
  | .nop => some ⟨0x000000#24, 0#64⟩
  | .reset => some ⟨0x600000#24, 0#64⟩
  | .inval => some ⟨0x800000#24, 0#64⟩
  | .fdone => some ⟨0xA00000#24, 0#64⟩
  | .save => some ⟨0xC00000#24, 0#64⟩
  | .restore v => do
    let v ← asmValue v
    some ⟨0xE00000#24, v⟩

/-- The instruction a line stands for: the operation by its mnemonic, the target by the address (R92, R52). -/
def AsmLine.instr : AsmLine → Instr
  | .rd size a => readInstr size (BitVec.ofNat 16 a)
  | .wr size a v => writeInstr size (BitVec.ofNat 16 a) (BitVec.ofNat 64 v)
  | .nop => .nop
  | .reset => .reset
  | .inval => .invalidate
  | .fdone => .frameDone
  | .save => .save
  | .restore v => .restore (BitVec.ofNat 64 v)

/-! ### The text (R92) -/

/-- A line without its comment: `;` starts one. -/
def dropComment : List Char → List Char
  | [] => []
  | c :: cs => if c = ';' then [] else c :: dropComment cs

/-- The words of a line, a comma being a word of its own; `word` is the word read so far, last character first. -/
def lexFrom : List Char → List Char → List (List Char)
  | [], word => if word = [] then [] else [word.reverse]
  | c :: cs, word =>
    if c = ' ' ∨ c = '\t' ∨ c = '\r' ∨ c = ',' then
      (if word = [] then [] else [word.reverse]) ++ (if c = ',' then [[',']] else []) ++ lexFrom cs []
    else lexFrom cs (c :: word)

/-- A digit of a number in a base up to 16; hexadecimal digits in either case. -/
def digitValue (base : Nat) (c : Char) : Option Nat :=
  let n := c.toNat
  let d := if 48 ≤ n ∧ n ≤ 57 then n - 48
    else if 65 ≤ n ∧ n ≤ 70 then n - 55
    else if 97 ≤ n ∧ n ≤ 102 then n - 87
    else base
  if d < base then some d else none

/-- The digits of a number after those read into `acc`. -/
def digitsFrom (base : Nat) : List Char → Nat → Option Nat
  | [], acc => some acc
  | c :: cs, acc =>
    match digitValue base c with
    | some d => digitsFrom base cs (acc * base + d)
    | none => none

/-- A number, hexadecimal with 0x or decimal; at least one digit. -/
def parseNumber : List Char → Option Nat
  | [] => none
  | '0' :: 'x' :: [] => none
  | '0' :: 'x' :: c :: cs => digitsFrom 16 (c :: cs) 0
  | c :: cs => digitsFrom 10 (c :: cs) 0

/-- The size suffix of RD and WR (R83, R92). -/
def parseSize : Char → Option Size
  | 'b' => some .b
  | 'h' => some .h
  | 'w' => some .w
  | 'd' => some .d
  | _ => none

/-- The words of a line that holds a command. -/
def parseWords : List (List Char) → Option AsmLine
  | [['N', 'O', 'P']] => some .nop
  | [['R', 'E', 'S', 'E', 'T']] => some .reset
  | [['I', 'N', 'V', 'A', 'L']] => some .inval
  | [['F', 'D', 'O', 'N', 'E']] => some .fdone
  | [['S', 'A', 'V', 'E']] => some .save
  | [['R', 'E', 'S', 'T', 'O', 'R', 'E'], v] => do
    let v ← parseNumber v
    some (.restore v)
  | [['R', 'D', '.', sz], a] => do
    let size ← parseSize sz
    let a ← parseNumber a
    some (.rd size a)
  | [['W', 'R', '.', sz], a, [','], v] => do
    let size ← parseSize sz
    let a ← parseNumber a
    let v ← parseNumber v
    some (.wr size a v)
  | _ => none

/-- One line of text: the commands it holds, which is none for a blank or comment line, one otherwise; `none` where
the line is not of R92's form or an operand does not fit. -/
def assembleLine (text : List Char) : Option (List Command) :=
  match lexFrom (dropComment text) [] with
  | [] => some []
  | words => do
    let line ← parseWords words
    let c ← assemble line
    some [c]

/-- A text, one command per line (R92). -/
def assembleText : List (List Char) → Option (List Command)
  | [] => some []
  | line :: lines => do
    let c ← assembleLine line
    let cs ← assembleText lines
    some (c ++ cs)

end Sys2Proof.Machine
end

