-- ==== Sys2Proof/Machine/Display.lean ====
section
/-! DEFINITION. The display port (43_display_port.md): the read-only export of the state, and what its bits mean to
the consumers outside the block. Drawing itself is out of scope (00_scope.md R3). -/

namespace Sys2Proof.Machine

/-- What the port exports (R170). The guard words are not among it (R175). -/
structure DisplayPort where
  /-- SEG_L, the left digit (R171). -/
  segL : Byte
  /-- SEG_R, the right digit (R171). -/
  segR : Byte
  /-- PIX(0) to PIX(1023) (R172). -/
  pix : Vector Word32 1024
  /-- ROW(0) to ROW(31) (R173). -/
  row : Vector Word32 32
  /-- DIRTY_BG (R174). -/
  dirtyBg : Bool
  /-- DIRTY_DISP (R174). -/
  dirtyDisp : Bool
deriving DecidableEq, Repr

/-- The port's outputs as stored: PIX(i) = RGB[i], ROW(r) = MONO[r] (R171 to R174). -/
def exported (s : State) : DisplayPort :=
  { segL := s.segL
    segR := s.segR
    pix := Vector.ofFn fun i => s.rgbWord i.val
    row := Vector.ofFn fun r => s.monoWord r.val
    dirtyBg := s.dirtyBg
    dirtyDisp := s.dirtyDisp }

/-- The display port: no value before the first RESET (R170, R34). -/
def displayPort (s : State) : Option DisplayPort :=
  if s.initialised then some (exported s) else none

/-! ### The digits (R171, R23) -/

/-- The seven strokes of a digit and its indicator LED (R23). -/
inductive Stroke where
  | top | upperLeft | lowerLeft | bottom | lowerRight | upperRight | middle | led
deriving DecidableEq, Repr

/-- The bit of a segment register that a stroke shows (R23, R171). -/
def strokeBit : Stroke → Nat
  | .top => 6
  | .upperLeft => 5
  | .lowerLeft => 4
  | .bottom => 3
  | .lowerRight => 2
  | .upperRight => 1
  | .middle => 0
  | .led => 7

/-- Whether a stroke is on: each is either on or off, never left from a previous value (R171). -/
def strokeOn (seg : Byte) (st : Stroke) : Bool := seg.getLsbD (strokeBit st)

/-! ### The pixels (R172, R173) -/

/-- The colour pixel at row r, column c: PIX(32r + c) (R172). -/
def pixelAt (d : DisplayPort) (r c : Fin 32) : Word32 :=
  d.pix[32 * r.val + c.val]

/-- Blue, bits [7:0] (R26, R172). -/
def blueOf (p : Word32) : Byte := p.extractLsb' 0 8
/-- Green, bits [15:8] (R26, R172). -/
def greenOf (p : Word32) : Byte := p.extractLsb' 8 8
/-- Red, bits [23:16] (R26, R172). -/
def redOf (p : Word32) : Byte := p.extractLsb' 16 8

/-- The monochrome pixel at row r, column c, column 0 leftmost: bit 31 - c of the row (R28, R173). -/
def monoPixelAt (d : DisplayPort) (r c : Fin 32) : Bool := (d.row[r.val]).getLsbD (31 - c.val)

/-! ### The composer and the text summary (R174, R176, R177) -/

/-- What a composition pass draws, in the order of R174. -/
inductive DrawOp where
  | background | leftDigit | rightDigit | rgbWidget | monoWidget
deriving DecidableEq, Repr

/-- What the flags ask a pass to draw (R174); nothing when both are 0 (R177). -/
def drawList (d : DisplayPort) : List DrawOp :=
  (if d.dirtyBg then [.background] else [])
    ++ (if d.dirtyDisp then [.leftDigit, .rightDigit, .rgbWidget, .monoWidget] else [])

/-- A composition pass as it touches the block: it reads the port and ends with one FRAME_DONE, whether or not any
flag was set (R177). Its FRAME_DONE is exec's, so it is performed on a block that holds the refusal mark too, although
a step of that block is refused: R177 and R192 leave open what a pass does there (DESIGN CHOICE, log entry 15). -/
def compositionPass (s : State) : Option (List DrawOp) × Host.Outcome State Fault Refusal :=
  ((displayPort s).map drawList, exec .frameDone s)

/-- One lower-case hexadecimal digit (R176). -/
def hexDigit (n : BitVec 4) : Char :=
  Char.ofNat (if n.toNat < 10 then 48 + n.toNat else 87 + n.toNat)

/-- Two lower-case hexadecimal digits, the most significant first (R176). -/
def hex2 (b : Byte) : List Char := [hexDigit (b.extractLsb' 4 4), hexDigit (b.extractLsb' 0 4)]

/-- The text summary's characters, hex2(SEG_L) ++ hex2(SEG_R); it reads no flag (R176). -/
def textSummary (d : DisplayPort) : List Char := hex2 d.segL ++ hex2 d.segR

end Sys2Proof.Machine
end

