-- ==== Sys2Proof/Safety.lean ====
section
/-! DEFINITION. What counts as a good state and a served event, in the terms the statements use. -/

namespace Sys2Proof.Machine

/-- The invariant of every step: each buffer's entries are in canonical form and inside its allocation (R57), and
once a RESET has been performed the last byte of each allocation holds 0x00 (R58). -/
structure State.Inv (s : State) : Prop where
  rgb_wf : s.rgb.wf = true
  mono_wf : s.mono.wf = true
  rgb_within : s.rgb.within Config.rgbAlloc = true
  mono_within : s.mono.within Config.monoAlloc = true
  rgb_last : s.initialised = true → s.rgb.read 4103 = 0#8
  mono_last : s.initialised = true → s.mono.read 135 = 0#8

/-- A command with one word only (R86). -/
def bareOp (op : BitVec 3) : Bool := op ≠ 0b001#3 && op ≠ 0b010#3

/-- Whether a command word has no meaning: RSV not 000 (R85), or SIZE or ADDR not zero on a command that takes none
(R86). R90: these and no other. -/
def illegalWord (cmd : CmdWord) : Bool :=
  rsvField cmd ≠ 0#3 || (bareOp (opField cmd) && (sizeField cmd ≠ 0#2 || addrField cmd ≠ 0#16))

/-- The table of R192, for an event presented to a block that is initialised or not: the reason it is refused with,
none where it is performed. Where two rows apply, DESIGN CHOICE of log entry 5. -/
def refusalOf (initialised : Bool) : PortEvent → Option Refusal
  | .commands _ _ _ => some .concurrent
  | .fetch _ => some .fetch
  | .command c =>
    if illegalWord c.cmd then some .reserved
    else if initialised = false ∧ opField c.cmd ≠ 0b011#3 then some .uninitialised
    else if opField c.cmd = 0b111#3 ∧ imageInRange c.wdata = false then some .restoreRange
    else none

/-- The commands that set a flag and so ask the composer for a redraw: WRITE, RESET, INVALIDATE and RESTORE (R32,
R214). -/
def asksRedraw (i : Instr) : Bool :=
  i.op = 0b010#3 || i.op = 0b011#3 || i.op = 0b100#3 || i.op = 0b111#3

/-- The picture stays as it is until the next redraw request (R214): after any commands that ask for none, all of them
performed, the port shows what it showed and a pass draws nothing, and the next WRITE, INVALIDATE, RESET or RESTORE
that is performed makes a pass draw every widget again. -/
def StaleUntilRedraw (u : State) : Prop :=
  ∀ js : List Instr, (∀ j ∈ js, asksRedraw j = false) →
    ∃ w, execAll js u = .next w ∧ displayPort w = displayPort u
      ∧ (displayPort w).map drawList = some []
      ∧ ∀ (j : Instr) (x : State), asksRedraw j = true → exec j w = .next x →
          ∃ d, displayPort x = some d ∧ [.leftDigit, .rightDigit, .rgbWidget, .monoWidget] <:+ drawList d

/-- What the block shows on its ports after n steps: each step's outcome settled, a refused step included (R192). -/
def settledRun : Nat → State → State
  | 0, s => s
  | n + 1, s => settledRun n (s.settle (step s))

end Sys2Proof.Machine
end

