-- ==== Sys2Proof/Certificates/Slice0/Obligations.lean ====
section
/-! DEFINITION. The statements for the provers, each from the rules of spec/ it names. Hypotheses are on the state and
the operands alone; an equality with `.next` says that the command completes, what it leaves, and its frame. -/

open Sys2Proof Sys2Proof.Machine

/-! ### Encoding and decoding -/

/-- Decoding the encoding of a well-formed command gives it back, every operand at every value (R81 to R89). -/
def Obligations.DecodeEncode : Prop :=
  ∀ i : Instr, i.wellFormed = true → decode (encode i) = .ok i

/-- A command that decodes is well formed, and encodes back to the same word and to the write data it uses: no bit
of a served word is dropped (R81, R87, R89). -/
def Obligations.EncodeDecode : Prop :=
  ∀ (c : Command) (i : Instr), decode c = .ok i →
    i.wellFormed = true ∧ (encode i).cmd = c.cmd ∧ (i.usesWdata = true → (encode i).wdata = c.wdata)

/-- The rows of R89 with their masks decide every word as the fields of R81 to R86 and the address decode of R52 do. -/
def Obligations.DecodeByFields : Prop :=
  ∀ c : Command, decode c = decodeByFields c

/-- The masks of the region rows are exact for their ranges (R89): a word matches the row of READ.RGB, READ.MONO,
WRITE.RGB or WRITE.MONO, and the decoder reads that command from it, exactly when its OP is the row's, RSV is 000 and
ADDR lies in the row's range. -/
def Obligations.MasksExactForRanges : Prop :=
  ∀ (cmd : CmdWord) (v : Data),
    let inRegion := fun (op : BitVec 3) (lo hi : Nat) =>
      opField cmd = op ∧ rsvField cmd = 0#3 ∧ lo ≤ (addrField cmd).toNat ∧ (addrField cmd).toNat ≤ hi
    (∀ size off, cmd &&& (Instr.readRgb size off).rowMask = (Instr.readRgb size off).rowMatch
        ↔ inRegion 0b001#3 0x4000 0x4FFF)
      ∧ (∀ size off, cmd &&& (Instr.readMono size off).rowMask = (Instr.readMono size off).rowMatch
        ↔ inRegion 0b001#3 0x8000 0x807F)
      ∧ (∀ size off, cmd &&& (Instr.writeRgb size off v).rowMask = (Instr.writeRgb size off v).rowMatch
        ↔ inRegion 0b010#3 0x4000 0x4FFF)
      ∧ (∀ size off, cmd &&& (Instr.writeMono size off v).rowMask = (Instr.writeMono size off v).rowMatch
        ↔ inRegion 0b010#3 0x8000 0x807F)
      ∧ ((∃ size off, decodeWord cmd v = .ok (.readRgb size off)) ↔ inRegion 0b001#3 0x4000 0x4FFF)
      ∧ ((∃ size off, decodeWord cmd v = .ok (.readMono size off)) ↔ inRegion 0b001#3 0x8000 0x807F)
      ∧ ((∃ size off, decodeWord cmd v = .ok (.writeRgb size off v)) ↔ inRegion 0b010#3 0x4000 0x4FFF)
      ∧ ((∃ size off, decodeWord cmd v = .ok (.writeMono size off v)) ↔ inRegion 0b010#3 0x8000 0x807F)

/-- The target of every start address is the one of the address map (R51, R52). -/
def Obligations.AddressMap : Prop :=
  ∀ a : Offset,
    (targetOf a = .segR ↔ a.toNat = 0x0010)
      ∧ (targetOf a = .segL ↔ a.toNat = 0x0011)
      ∧ (targetOf a = .rgb ↔ 0x4000 ≤ a.toNat ∧ a.toNat ≤ 0x4FFF)
      ∧ (targetOf a = .mono ↔ 0x8000 ≤ a.toNat ∧ a.toNat ≤ 0x807F)
      ∧ (targetOf a = .unmapped ↔
          a.toNat ≤ 0x000F ∨ (0x0012 ≤ a.toNat ∧ a.toNat ≤ 0x3FFF)
            ∨ (0x5000 ≤ a.toNat ∧ a.toNat ≤ 0x7FFF) ∨ 0x8080 ≤ a.toNat)

/-- Words written out from the fields of R81 and R82 decode to the commands they stand for (test vectors G12, B11,
B12, M6, K4, K10 and K13 among them). -/
def Obligations.DecodeWords : Prop :=
  decode ⟨0b000_000_00_0000000000000000#24, 0#64⟩ = .ok .nop
    ∧ decode ⟨0b001_000_01_0000000000010000#24, 0#64⟩ = .ok (.readSegR .h)
    ∧ decode ⟨0b001_000_10_0000000000010001#24, 0#64⟩ = .ok (.readSegL .w)
    ∧ decode ⟨0b001_000_11_0100111111111101#24, 0#64⟩ = .ok (.readRgb .d 0xFFD#12)
    ∧ decode ⟨0b001_000_00_1000000001111111#24, 0#64⟩ = .ok (.readMono .b 0x7F#7)
    ∧ decode ⟨0b001_000_11_1111111111111111#24, 0#64⟩ = .ok (.readUnmapped .d 0xFFFF#16)
    ∧ decode ⟨0b010_000_11_0000000000010000#24, 0x1122334455667788#64⟩
        = .ok (.writeSegR .d 0x1122334455667788#64)
    ∧ decode ⟨0b010_000_11_0100111111111101#24, 0x0807060504030201#64⟩
        = .ok (.writeRgb .d 0xFFD#12 0x0807060504030201#64)
    ∧ decode ⟨0b010_000_01_1000000001111111#24, 0xBEEF#64⟩ = .ok (.writeMono .h 0x7F#7 0xBEEF#64)
    ∧ decode ⟨0b101_000_00_0000000000000000#24, 0#64⟩ = .ok .frameDone
    ∧ decode ⟨0b110_000_00_0000000000000000#24, 0#64⟩ = .ok .save
    ∧ decode ⟨0b111_000_00_0000000000000000#24, 0xCD00AB#64⟩ = .ok (.restore 0xCD00AB#64)

/-- R85: a command whose reserved field is not 000 is refused with reason `reserved` and changes no state. Before the
first RESET, where R34 refuses every command but RESET with reason `uninitialised`, either reason is left open here. -/
def Obligations.ReservedFieldRefused : Prop :=
  ∀ (s : State) (c : Command) (rest : List PortEvent), s.refusedMark = none →
    s.pending = .command c :: rest → rsvField c.cmd ≠ 0#3 →
      ∃ r, step s = .refused r
        ∧ (r = .reserved ∨ (s.initialised = false ∧ opField c.cmd ≠ 0b011#3 ∧ r = .uninitialised))
        ∧ { s.settle (step s) with pending := s.pending } = { s with rdata := 0#64, refusedMark := some r }

/-- R86: each command that takes no SIZE and no ADDR has exactly one word; a word with its OP and another SIZE or ADDR
is refused with reason `reserved` and changes no state. Before the first RESET, where R34 refuses every command but
RESET with reason `uninitialised`, either reason is left open here. -/
def Obligations.NonCanonicalWordRefused : Prop :=
  (∀ (c : Command) (i : Instr), decode c = .ok i → opField c.cmd ≠ 0b001#3 → opField c.cmd ≠ 0b010#3 →
      c.cmd = pack (opField c.cmd) 0#3 0#2 0#16)
    ∧ ∀ (s : State) (c : Command) (rest : List PortEvent), s.refusedMark = none →
        s.pending = .command c :: rest → rsvField c.cmd = 0#3 →
        opField c.cmd ≠ 0b001#3 → opField c.cmd ≠ 0b010#3 →
        (sizeField c.cmd ≠ 0#2 ∨ addrField c.cmd ≠ 0#16) →
          ∃ r, step s = .refused r
            ∧ (r = .reserved ∨ (s.initialised = false ∧ opField c.cmd ≠ 0b011#3 ∧ r = .uninitialised))
            ∧ { s.settle (step s) with pending := s.pending } = { s with rdata := 0#64, refusedMark := some r }

/-- R87: a WRITE uses the low 8w bits of WDATA and no other; every command but WRITE and RESTORE ignores WDATA. -/
def Obligations.UnusedWriteDataIgnored : Prop :=
  (∀ (size : Size) (a : Offset) (v v' : Data) (s : State),
      (∀ j, j < 8 * size.bytes → v.getLsbD j = v'.getLsbD j) →
        exec (writeInstr size a v) s = exec (writeInstr size a v') s)
    ∧ (∀ (cmd : CmdWord) (v v' : Data), opField cmd ≠ 0b010#3 → opField cmd ≠ 0b111#3 →
        decode ⟨cmd, v⟩ = decode ⟨cmd, v'⟩)
    ∧ ∀ v : Data, decode ⟨0xE00000#24, v⟩ = .ok (.restore v)

/-- What a line of R92 assembles to decodes to the command its mnemonic and address name; an address above 0xFFFF is
rejected. That a value must lie below 2^64 is the model's choice (log entry 9). -/
def Obligations.AssembledLineDecodes : Prop :=
  (∀ (l : AsmLine) (c : Command), assemble l = some c → decode c = .ok l.instr)
    ∧ (∀ (size : Size) (a : Nat), (∃ c, assemble (.rd size a) = some c) ↔ a ≤ 0xFFFF)
    ∧ ∀ (size : Size) (a v : Nat), v < 2 ^ 64 → ((∃ c, assemble (.wr size a v) = some c) ↔ a ≤ 0xFFFF)

/-! ### One step -/

/-- When the command at the port decodes, the step is exec of it on the state with that command taken from the port
(R8, R64). -/
def Obligations.StepRunsDecodedCommand : Prop :=
  ∀ (s : State) (c : Command) (rest : List PortEvent) (i : Instr), s.refusedMark = none →
    s.pending = .command c :: rest → decode c = .ok i →
      step s = exec i { s with pending := rest }

/-- The word placed by withFetchWord is the one the next step runs, on the state as it was (log entry 7). -/
def Obligations.StepRunsPlacedWord : Prop :=
  ∀ (s : State) (w : Nat) (i : Instr), s.refusedMark = none → decodeTableWord 24 w = some i →
    step (s.withFetchWord 24 w) = exec i s

/-- The model's choice of log entry 1: a step with nothing presented is a NOP, as R80's "NOP for a step with no
operation" is read. -/
def Obligations.IdleStepIsNop : Prop :=
  ∀ s : State, s.refusedMark = none → s.pending = [] → step s = exec .nop s

/-- A step refuses what the table of R192 names, by its reason, and serves everything else; where two reasons apply
the order is the model's choice (log entry 5). -/
def Obligations.StepRefusesByTable : Prop :=
  ∀ (s : State) (e : PortEvent) (rest : List PortEvent), s.refusedMark = none → s.pending = e :: rest →
    (∀ r, step s = .refused r ↔ refusalOf s.initialised e = some r)
      ∧ ((∃ t, step s = .next t) ↔ refusalOf s.initialised e = none)

/-- A refused step changes no state and drives RDATA = 0, and its mark is never cleared: every later step is refused
with the same reason (R36, R192). That the refused event stays at the port, and that a marked block refuses every
event, is the model's reading (log entry 4). -/
def Obligations.RefusalIsFinal : Prop :=
  ∀ (s : State) (r : Refusal), step s = .refused r →
    s.settle (step s) = { s with rdata := 0#64, refusedMark := some r }
      ∧ ∀ n, settledRun n (s.settle (step s)) = s.settle (step s)
          ∧ step (settledRun n (s.settle (step s))) = .refused r

/-- R193, R68: two commands in one step and an instruction fetch are refused, whatever they carry. -/
def Obligations.OutsideInterfaceRefused : Prop :=
  ∀ (s : State) (rest : List PortEvent), s.refusedMark = none →
    (∀ c c' more, s.pending = .commands c c' more :: rest → step s = .refused .concurrent)
      ∧ ∀ a, s.pending = .fetch a :: rest → step s = .refused .fetch

/-! ### Before and at the first RESET -/

/-- R34: whatever the state elements hold, every command but RESET is refused with reason `uninitialised` before the
first RESET, and the display port has no value. For a RESTORE image out of range, which R155 refuses with reason
`restore_range`, either reason is left open here. -/
def Obligations.UninitialisedRefused : Prop :=
  ∀ s : State, s.initialised = false →
    (∀ i : Instr, i ≠ .reset → ∃ r, exec i s = .refused r
        ∧ (r = .uninitialised
            ∨ (r = .restoreRange ∧ ∃ image, i = .restore image ∧ imageInRange image = false)))
      ∧ (∃ t, exec .reset s = .next t) ∧ displayPort s = none

/-- R151: RESET is accepted in every state and clears both segment registers, every word of both buffers, guard words
included, sets both flags, marks the block initialised and drives RDATA = 0. -/
def Obligations.ResetCommand : Prop :=
  (∀ v : Data, decode ⟨0x600000#24, v⟩ = .ok .reset) ∧
  ∀ s : State, ∃ t, exec .reset s = .next t
    ∧ t.segR = 0#8 ∧ t.segL = 0#8
    ∧ (∀ i, i ≤ 1025 → t.rgbWord i = 0#32) ∧ (∀ i, i ≤ 33 → t.monoWord i = 0#32)
    ∧ t.dirtyBg = true ∧ t.dirtyDisp = true ∧ t.initialised = true ∧ t.rdata = 0#64
    ∧ t.refusedMark = s.refusedMark ∧ t.pending = s.pending

/-- R35: the value of every state element after RESET, from every state, is the one of ResetState. -/
def Obligations.ResetStateValues : Prop :=
  (∀ s : State, exec .reset s = .next { State.reset with refusedMark := s.refusedMark, pending := s.pending })
    ∧ State.reset.segR = 0#8 ∧ State.reset.segL = 0#8
    ∧ (∀ i, i ≤ 1025 → State.reset.rgbWord i = 0#32) ∧ (∀ i, i ≤ 33 → State.reset.monoWord i = 0#32)
    ∧ State.reset.dirtyBg = true ∧ State.reset.dirtyDisp = true

/-- The boot order of R212: power-on, then RESET, gives ResetState with the rest of the commands to come. -/
def Obligations.BootReachesResetState : Prop :=
  ∀ es : List PortEvent,
    step (State.powerOn (.command ⟨0x600000#24, 0#64⟩ :: es)) = .next { State.reset with pending := es }

/-! ### READ -/

/-- R110: the word of a READ is the READ of its width and of the target its start address selects; it completes at
every address, drives a value with RDATA[63:8w] = 0 and changes nothing else, so neither flag. -/
def Obligations.ReadCompletes : Prop :=
  (∀ c : Command, opField c.cmd = 0b001#3 → rsvField c.cmd = 0#3 →
      decode c = .ok (readInstr (accessSize c.cmd) (addrField c.cmd))) ∧
  ∀ (size : Size) (a : Offset) (s : State), s.initialised = true →
    ∃ v, exec (readInstr size a) s = .next { s with rdata := v }
      ∧ ∀ j, 8 * size.bytes ≤ j → v.getLsbD j = false

/-- R111: READ at 0x0010 drives SEG_R at width 1 and right | (left << 8) at the other widths. -/
def Obligations.ReadSegRValue : Prop :=
  (∀ c : Command, c.cmd &&& 0xFCFFFF#24 = 0x200010#24 → decode c = .ok (.readSegR (accessSize c.cmd)))
    ∧ ∀ (size : Size) (s : State), s.initialised = true →
        exec (.readSegR size) s
          = .next { s with rdata := if size.bytes = 1 then s.segR.setWidth 64
                                    else s.segR.setWidth 64 ||| (s.segL.setWidth 64 <<< 8) }

/-- R112: READ at 0x0011 drives SEG_L at every width. -/
def Obligations.ReadSegLValue : Prop :=
  (∀ c : Command, c.cmd &&& 0xFCFFFF#24 = 0x200011#24 → decode c = .ok (.readSegL (accessSize c.cmd)))
    ∧ ∀ (size : Size) (s : State), s.initialised = true →
        exec (.readSegL size) s = .next { s with rdata := s.segL.setWidth 64 }

/-- R113: READ in the RGB region drives the w bytes from off on, zero above them, which is the word form too. -/
def Obligations.ReadRgbValue : Prop :=
  (∀ c : Command, c.cmd &&& 0xFCF000#24 = 0x204000#24 →
      decode c = .ok (.readRgb (accessSize c.cmd) (rgbOffset (addrField c.cmd))))
    ∧ ∀ (size : Size) (off : BitVec 12) (s : State), s.initialised = true →
        ∃ v : Data, exec (.readRgb size off) s = .next { s with rdata := v }
          ∧ (∀ i, i < 8 → v.extractLsb' (8 * i) 8
              = if i < size.bytes then s.rgb.read (off.toNat + i) else 0#8)
          ∧ v = windowRead s.rgb off.toNat size.bytes

/-- R114: READ in the monochrome region, as R113. -/
def Obligations.ReadMonoValue : Prop :=
  (∀ c : Command, c.cmd &&& 0xFCFF80#24 = 0x208000#24 →
      decode c = .ok (.readMono (accessSize c.cmd) (monoOffset (addrField c.cmd))))
    ∧ ∀ (size : Size) (off : BitVec 7) (s : State), s.initialised = true →
        ∃ v : Data, exec (.readMono size off) s = .next { s with rdata := v }
          ∧ (∀ i, i < 8 → v.extractLsb' (8 * i) 8
              = if i < size.bytes then s.mono.read (off.toNat + i) else 0#8)
          ∧ v = windowRead s.mono off.toNat size.bytes

/-- R115: a READ whose start address selects no target drives 0. -/
def Obligations.ReadUnmappedValue : Prop :=
  (∀ c : Command, opField c.cmd = 0b001#3 → rsvField c.cmd = 0#3 → (addrField c.cmd).unmapped = true →
      decode c = .ok (.readUnmapped (accessSize c.cmd) (addrField c.cmd)))
    ∧ ∀ (size : Size) (a : Offset) (s : State), s.initialised = true →
        exec (.readUnmapped size a) s = .next { s with rdata := 0#64 }

/-- R55: RegionRead gives the little-endian value of its w bytes, zero above them, and the word-level form over the
96-bit window gives the same. -/
def Obligations.RegionReadForms : Prop :=
  ∀ (m : Memory) (off : Nat) (size : Size),
    (∀ i, i < 8 → (regionRead m off size.bytes).extractLsb' (8 * i) 8
        = if i < size.bytes then m.read (off + i) else 0#8)
      ∧ windowRead m off size.bytes = regionRead m off size.bytes
      ∧ (off ≤ 4095 → off / 4 + 2 ≤ 1025) ∧ (off ≤ 127 → off / 4 + 2 ≤ 33)

/-! ### WRITE -/

/-- R130: the word of a WRITE is the WRITE of its width and write data and of the target its start address selects; it
completes at every address, sets DIRTY_DISP, leaves DIRTY_BG and drives RDATA = 0. -/
def Obligations.WriteCompletes : Prop :=
  (∀ c : Command, opField c.cmd = 0b010#3 → rsvField c.cmd = 0#3 →
      decode c = .ok (writeInstr (accessSize c.cmd) (addrField c.cmd) c.wdata)) ∧
  ∀ (size : Size) (a : Offset) (v : Data) (s : State), s.initialised = true →
    ∃ t, exec (writeInstr size a v) s = .next t
      ∧ t.dirtyDisp = true ∧ t.dirtyBg = s.dirtyBg ∧ t.rdata = 0#64

/-- R131: WRITE at 0x0010 sets SEG_R, and at every width above 1 SEG_L from the next byte; v[63:16] is ignored. -/
def Obligations.WriteSegREffect : Prop :=
  (∀ c : Command, c.cmd &&& 0xFCFFFF#24 = 0x400010#24 → decode c = .ok (.writeSegR (accessSize c.cmd) c.wdata))
    ∧ ∀ (size : Size) (v : Data) (s : State), s.initialised = true →
        exec (.writeSegR size v) s
          = .next { s with segR := v.extractLsb' 0 8
                           segL := if size.bytes = 1 then s.segL else v.extractLsb' 8 8
                           dirtyDisp := true
                           rdata := 0#64 }

/-- R132: WRITE at 0x0011 sets SEG_L from v[7:0] at every width and never SEG_R. -/
def Obligations.WriteSegLEffect : Prop :=
  (∀ c : Command, c.cmd &&& 0xFCFFFF#24 = 0x400011#24 → decode c = .ok (.writeSegL (accessSize c.cmd) c.wdata))
    ∧ ∀ (size : Size) (v : Data) (s : State), s.initialised = true →
        exec (.writeSegL size v) s
          = .next { s with segL := v.extractLsb' 0 8, dirtyDisp := true, rdata := 0#64 }

/-- R133: WRITE in the RGB region gives bytes off to off + w - 1 the bytes of v; every other byte reads as before;
the word form gives the same buffer. -/
def Obligations.WriteRgbEffect : Prop :=
  (∀ c : Command, c.cmd &&& 0xFCF000#24 = 0x404000#24 →
      decode c = .ok (.writeRgb (accessSize c.cmd) (rgbOffset (addrField c.cmd)) c.wdata))
    ∧ ∀ (size : Size) (off : BitVec 12) (v : Data) (s : State), s.initialised = true → s.rgb.wf = true →
        ∃ m : Memory, exec (.writeRgb size off v) s
            = .next { s with rgb := m, dirtyDisp := true, rdata := 0#64 }
          ∧ m.wf = true
          ∧ (∀ k, m.read k = if off.toNat ≤ k ∧ k < off.toNat + size.bytes
                              then v.extractLsb' (8 * (k - off.toNat)) 8 else s.rgb.read k)
          ∧ m = windowWrite s.rgb off.toNat size.bytes v

/-- R134: WRITE in the monochrome region, as R133. -/
def Obligations.WriteMonoEffect : Prop :=
  (∀ c : Command, c.cmd &&& 0xFCFF80#24 = 0x408000#24 →
      decode c = .ok (.writeMono (accessSize c.cmd) (monoOffset (addrField c.cmd)) c.wdata))
    ∧ ∀ (size : Size) (off : BitVec 7) (v : Data) (s : State), s.initialised = true → s.mono.wf = true →
        ∃ m : Memory, exec (.writeMono size off v) s
            = .next { s with mono := m, dirtyDisp := true, rdata := 0#64 }
          ∧ m.wf = true
          ∧ (∀ k, m.read k = if off.toNat ≤ k ∧ k < off.toNat + size.bytes
                              then v.extractLsb' (8 * (k - off.toNat)) 8 else s.mono.read k)
          ∧ m = windowWrite s.mono off.toNat size.bytes v

/-- R135: a WRITE whose start address selects no target changes no storage and sets DIRTY_DISP. -/
def Obligations.WriteUnmappedEffect : Prop :=
  (∀ c : Command, opField c.cmd = 0b010#3 → rsvField c.cmd = 0#3 → (addrField c.cmd).unmapped = true →
      decode c = .ok (.writeUnmapped (accessSize c.cmd) (addrField c.cmd) c.wdata))
    ∧ ∀ (size : Size) (a : Offset) (v : Data) (s : State), s.initialised = true →
        exec (.writeUnmapped size a v) s = .next { s with dirtyDisp := true, rdata := 0#64 }

/-- R56: RegionWrite gives its w bytes the low w bytes of v, changes no other byte and ignores v[63:8w]; the
word-level form with its byte mask gives the same buffer, and a third word is touched only when w = 8 and b ≥ 1. -/
def Obligations.RegionWriteForms : Prop :=
  ∀ (m : Memory) (off : Nat) (size : Size) (v : Data), m.wf = true →
    (∀ k, (regionWrite m off v size.bytes).read k
        = if off ≤ k ∧ k < off + size.bytes then v.extractLsb' (8 * (k - off)) 8 else m.read k)
      ∧ windowWrite m off size.bytes v = regionWrite m off v size.bytes
      ∧ (8 < off % 4 + size.bytes ↔ size.bytes = 8 ∧ 1 ≤ off % 4)
      ∧ ∀ v' : Data, (∀ j, j < 8 * size.bytes → v.getLsbD j = v'.getLsbD j) →
          regionWrite m off v size.bytes = regionWrite m off v' size.bytes

/-- R136: no WRITE changes a state element other than those its target names, DIRTY_DISP and the read data. -/
def Obligations.WriteContainment : Prop :=
  ∀ (size : Size) (a : Offset) (v : Data) (s t : State), exec (writeInstr size a v) s = .next t →
    (targetOf a ≠ .segR → t.segR = s.segR)
      ∧ (targetOf a ≠ .segR → targetOf a ≠ .segL → t.segL = s.segL)
      ∧ (targetOf a ≠ .rgb → t.rgb = s.rgb)
      ∧ (targetOf a ≠ .mono → t.mono = s.mono)
      ∧ t.dirtyBg = s.dirtyBg ∧ t.initialised = s.initialised ∧ t.refusedMark = s.refusedMark
      ∧ t.pending = s.pending

/-- R63: a READ changes no state, every WRITE sets DIRTY_DISP and leaves DIRTY_BG, and a WRITE done twice leaves what
it left done once. -/
def Obligations.SideEffects : Prop :=
  (∀ (size : Size) (a : Offset) (s t : State), exec (readInstr size a) s = .next t →
      t = { s with rdata := t.rdata } ∧ exec (readInstr size a) t = .next t)
    ∧ ∀ (size : Size) (a : Offset) (v : Data) (s t : State), s.rgb.wf = true → s.mono.wf = true →
        exec (writeInstr size a v) s = .next t →
          t.dirtyDisp = true ∧ t.dirtyBg = s.dirtyBg ∧ exec (writeInstr size a v) t = .next t

/-- R116: a WRITE and then a READ at the same address and width give back v truncated to w bytes in the two regions;
at 0x0010 they give v[15:0] at most, and at 0x0011 v[7:0]. -/
def Obligations.RoundTrip : Prop :=
  ∀ (size : Size) (a : Offset) (v : Data) (s : State), s.initialised = true → s.rgb.wf = true →
    s.mono.wf = true → targetOf a ≠ .unmapped →
      ∃ t u, exec (writeInstr size a v) s = .next t ∧ exec (readInstr size a) t = .next u
        ∧ ∀ j, j < 64 → u.rdata.getLsbD j
            = (v.getLsbD j && decide (j < 8 * size.bytes)
                && decide (targetOf a = .segR → j < 16) && decide (targetOf a = .segL → j < 8))

/-- R64: a READ after a WRITE returns the written bytes where the two overlap and the old bytes where they do not,
for every two widths and start addresses of the RGB region, of the monochrome region, and of the segment registers at
0x0010 and 0x0011, which a WRITE of width 2 or more at 0x0010 and a READ of width 2 or more there cover together. -/
def Obligations.OverlappingReadAfterWrite : Prop :=
  ∀ (size size' : Size) (v : Data) (s : State), s.initialised = true →
    (s.rgb.wf = true → ∀ off off' : BitVec 12,
        ∃ t u, exec (.writeRgb size off v) s = .next t ∧ exec (.readRgb size' off') t = .next u
          ∧ ∀ i, i < size'.bytes → u.rdata.extractLsb' (8 * i) 8
              = if off.toNat ≤ off'.toNat + i ∧ off'.toNat + i < off.toNat + size.bytes
                then v.extractLsb' (8 * (off'.toNat + i - off.toNat)) 8 else s.rgb.read (off'.toNat + i))
      ∧ (s.mono.wf = true → ∀ off off' : BitVec 7,
        ∃ t u, exec (.writeMono size off v) s = .next t ∧ exec (.readMono size' off') t = .next u
          ∧ ∀ i, i < size'.bytes → u.rdata.extractLsb' (8 * i) 8
              = if off.toNat ≤ off'.toNat + i ∧ off'.toNat + i < off.toNat + size.bytes
                then v.extractLsb' (8 * (off'.toNat + i - off.toNat)) 8 else s.mono.read (off'.toNat + i))
      ∧ (∃ t u u', exec (.writeSegR size v) s = .next t
          ∧ exec (.readSegR size') t = .next u ∧ exec (.readSegL size') t = .next u'
          ∧ u.rdata.extractLsb' 0 8 = v.extractLsb' 0 8
          ∧ (2 ≤ size'.bytes → u.rdata.extractLsb' 8 8 = if 2 ≤ size.bytes then v.extractLsb' 8 8 else s.segL)
          ∧ u'.rdata.extractLsb' 0 8 = if 2 ≤ size.bytes then v.extractLsb' 8 8 else s.segL)
      ∧ ∃ t u u', exec (.writeSegL size v) s = .next t
          ∧ exec (.readSegR size') t = .next u ∧ exec (.readSegL size') t = .next u'
          ∧ u.rdata.extractLsb' 0 8 = s.segR
          ∧ (2 ≤ size'.bytes → u.rdata.extractLsb' 8 8 = v.extractLsb' 0 8)
          ∧ u'.rdata.extractLsb' 0 8 = v.extractLsb' 0 8

/-- R57: an access of any width that starts in a region stays in its allocation, byte by byte and word by word;
whatever it reads or changes lies below the last byte of the allocation: a READ gives the same for two buffers alike
below it, and a WRITE changes nothing from it on. -/
def Obligations.GuardAbsorption : Prop :=
  (∀ (size : Size) (off : Nat),
      (off ≤ 4095 → off + size.bytes - 1 ≤ 4102 ∧ off / 4 + 2 ≤ 1025)
        ∧ (off ≤ 127 → off + size.bytes - 1 ≤ 134 ∧ off / 4 + 2 ≤ 33)) ∧
  (∀ (size : Size) (a : Offset) (s s' t t' : State),
      (∀ k, k ≤ 4102 → s.rgb.read k = s'.rgb.read k) → (∀ k, k ≤ 134 → s.mono.read k = s'.mono.read k) →
      s.segR = s'.segR → s.segL = s'.segL →
      exec (readInstr size a) s = .next t → exec (readInstr size a) s' = .next t' → t.rdata = t'.rdata)
    ∧ ∀ (size : Size) (a : Offset) (v : Data) (s t : State), s.rgb.wf = true → s.mono.wf = true →
        exec (writeInstr size a v) s = .next t →
          (∀ k, 4102 < k → t.rgb.read k = s.rgb.read k) ∧ (∀ k, 134 < k → t.mono.read k = s.mono.read k)

/-- R58: the last byte of each allocation is written by RESET and RESTORE alone, and always to zero. -/
def Obligations.LastByteOutOfReach : Prop :=
  ∀ (i : Instr) (s t : State), s.rgb.wf = true → s.mono.wf = true → exec i s = .next t →
    (i.op ≠ 0b011#3 → i.op ≠ 0b111#3 → t.rgb.read 4103 = s.rgb.read 4103 ∧ t.mono.read 135 = s.mono.read 135)
      ∧ (i.op = 0b011#3 ∨ i.op = 0b111#3 → t.rgb.read 4103 = 0#8 ∧ t.mono.read 135 = 0#8)

/-- R59: the start addresses that would name guard bytes are unmapped: a READ there gives 0 and a WRITE there changes
no storage, whatever the guard words hold; and a READ in a region returns nothing of a byte its own span does not
cover. -/
def Obligations.GuardBytesOnlyBySpill : Prop :=
  (∀ (size : Size) (a : Offset) (v : Data) (s : State), s.initialised = true →
    (0x5000 ≤ a.toNat ∧ a.toNat ≤ 0x5007) ∨ (0x8080 ≤ a.toNat ∧ a.toNat ≤ 0x8087) →
      exec (readInstr size a) s = .next { s with rdata := 0#64 }
        ∧ exec (writeInstr size a v) s = .next { s with dirtyDisp := true, rdata := 0#64 })
    ∧ (∀ (size : Size) (off : BitVec 12) (s s' t t' : State),
        (∀ k, off.toNat ≤ k → k < off.toNat + size.bytes → s.rgb.read k = s'.rgb.read k) →
        exec (.readRgb size off) s = .next t → exec (.readRgb size off) s' = .next t' → t.rdata = t'.rdata)
    ∧ ∀ (size : Size) (off : BitVec 7) (s s' t t' : State),
        (∀ k, off.toNat ≤ k → k < off.toNat + size.bytes → s.mono.read k = s'.mono.read k) →
        exec (.readMono size off) s = .next t → exec (.readMono size off) s' = .next t' → t.rdata = t'.rdata

/-! ### Control commands -/

/-- R150: NOP changes no state and drives RDATA = 0; before the first RESET it is refused. -/
def Obligations.NopChangesNothing : Prop :=
  (∀ v : Data, decode ⟨0x000000#24, v⟩ = .ok .nop)
    ∧ ∀ s : State, (s.initialised = true → exec .nop s = .next { s with rdata := 0#64 })
        ∧ (s.initialised = false → exec .nop s = .refused .uninitialised)

/-- R152: INVALIDATE sets both flags and changes no storage. -/
def Obligations.InvalidateSetsBothFlags : Prop :=
  (∀ v : Data, decode ⟨0x800000#24, v⟩ = .ok .invalidate)
    ∧ ∀ s : State, s.initialised = true →
        exec .invalidate s = .next { s with dirtyBg := true, dirtyDisp := true, rdata := 0#64 }

/-- R153: FRAME_DONE clears both flags together, whatever they were, and changes no storage. -/
def Obligations.FrameDoneClearsBothFlags : Prop :=
  (∀ v : Data, decode ⟨0xA00000#24, v⟩ = .ok .frameDone)
    ∧ ∀ s : State, s.initialised = true →
        exec .frameDone s = .next { s with dirtyBg := false, dirtyDisp := false, rdata := 0#64 }

/-- R154: SAVE drives segment_left in [15:0], segment_right in [31:16] and zero above, and changes no state. -/
def Obligations.SaveDrivesImage : Prop :=
  (∀ v : Data, decode ⟨0xC00000#24, v⟩ = .ok .save)
    ∧ ∀ s : State, s.initialised = true →
        ∃ v : Data, exec .save s = .next { s with rdata := v }
          ∧ v.extractLsb' 0 16 = s.segL.setWidth 16 ∧ v.extractLsb' 16 16 = s.segR.setWidth 16
          ∧ v.extractLsb' 32 32 = 0#32

/-- R155: RESTORE refuses an image with a bit set in [15:8], [31:24] or [63:32]; it takes both segment registers
from any other, zeroes every buffer word, guard words included, sets both flags and drives RDATA = 0. -/
def Obligations.RestoreFromImage : Prop :=
  (∀ v : Data, decode ⟨0xE00000#24, v⟩ = .ok (.restore v))
    ∧ ∀ (image : Data) (s : State), s.initialised = true →
        (image.extractLsb' 8 8 ≠ 0#8 ∨ image.extractLsb' 24 8 ≠ 0#8 ∨ image.extractLsb' 32 32 ≠ 0#32 →
            exec (.restore image) s = .refused .restoreRange
              ∧ { s.settle (exec (.restore image) s) with pending := s.pending }
                  = { s with rdata := 0#64, refusedMark := some .restoreRange })
          ∧ (image.extractLsb' 8 8 = 0#8 → image.extractLsb' 24 8 = 0#8 → image.extractLsb' 32 32 = 0#32 →
              ∃ t, exec (.restore image) s = .next t
                ∧ t.segL = image.extractLsb' 0 8 ∧ t.segR = image.extractLsb' 16 8
                ∧ (∀ i, i ≤ 1025 → t.rgbWord i = 0#32) ∧ (∀ i, i ≤ 33 → t.monoWord i = 0#32)
                ∧ t.dirtyBg = true ∧ t.dirtyDisp = true ∧ t.rdata = 0#64
                ∧ t.initialised = s.initialised ∧ t.refusedMark = s.refusedMark ∧ t.pending = s.pending)

/-- R156: RESTORE of the image SAVE drove is never refused, whatever was done in between, and gives back the segment
registers SAVE saw, with every buffer word zero and both flags set. -/
def Obligations.SaveRestoreRoundTrip : Prop :=
  ∀ s u : State, s.initialised = true → u.initialised = true →
    ∃ t, exec .save s = .next t
      ∧ ∃ r, exec (.restore t.rdata) u = .next r
          ∧ r.segL = s.segL ∧ r.segR = s.segR
          ∧ (∀ i, i ≤ 1025 → r.rgbWord i = 0#32) ∧ (∀ i, i ≤ 33 → r.monoWord i = 0#32)
          ∧ r.dirtyBg = true ∧ r.dirtyDisp = true

/-- R211: an accepted RESTORE leaves the block in ResetState except for the two segment registers. -/
def Obligations.RestoreLeavesResetState : Prop :=
  ∀ (image : Data) (s t : State), exec (.restore image) s = .next t →
    t = { State.reset with segL := image.extractLsb' 0 8, segR := image.extractLsb' 16 8,
                           refusedMark := s.refusedMark, pending := s.pending }

/-! ### Rules of the whole machine -/

/-- R32: what each command does to the two flags; a flag once set stays set until FRAME_DONE. -/
def Obligations.FlagTable : Prop :=
  ∀ (i : Instr) (s t : State), exec i s = .next t →
    (i.op = 0b000#3 ∨ i.op = 0b001#3 ∨ i.op = 0b110#3 → t.dirtyBg = s.dirtyBg ∧ t.dirtyDisp = s.dirtyDisp)
      ∧ (i.op = 0b010#3 → t.dirtyBg = s.dirtyBg ∧ t.dirtyDisp = true)
      ∧ (i.op = 0b011#3 ∨ i.op = 0b100#3 ∨ i.op = 0b111#3 → t.dirtyBg = true ∧ t.dirtyDisp = true)
      ∧ (i.op = 0b101#3 → t.dirtyBg = false ∧ t.dirtyDisp = false)
      ∧ (i.op ≠ 0b101#3 → (s.dirtyBg = true → t.dirtyBg = true) ∧ (s.dirtyDisp = true → t.dirtyDisp = true))

/-- An initialised block serves every command; only a RESTORE with an image out of range is left out (R190, R192). -/
def Obligations.EveryCommandServed : Prop :=
  ∀ (i : Instr) (s : State), s.initialised = true →
    (∀ image, i = .restore image → imageInRange image = true) → ∃ t, exec i s = .next t

/-- Every step keeps the invariant: both buffers canonical and inside their allocations, and the last byte of each
zero once a RESET has been performed (R57, R58; log entry 6). -/
def Obligations.StepKeepsInv : Prop :=
  ∀ s t : State, s.Inv → step s = .next t → t.Inv

/-- The invariant holds right after reset. -/
def Obligations.ResetInv : Prop := State.reset.Inv

/-- The invariant holds at power-on, whatever the unspecified elements hold (R34). -/
def Obligations.PowerOnInv : Prop := ∀ es : List PortEvent, (State.powerOn es).Inv

/-- R36: the initialised flag is set by RESET and never cleared; a step sets it only by RESET. -/
def Obligations.InitialisedByResetOnly : Prop :=
  ∀ s t : State, step s = .next t →
    t.initialised = true
      ∧ (s.initialised = false → ∃ c rest, s.pending = .command c :: rest ∧ c.cmd = 0x600000#24
          ∧ t = { State.reset with pending := rest })

/-- The dirty flags and the old read data reach neither storage nor RDATA: two blocks that differ in nothing else do
the same to everything else at every step (R31, R88). -/
def Obligations.FlagsNotReadableOnBus : Prop :=
  ∀ (s t : State) (bg disp : Bool) (v : Data), step s = .next t →
    ∃ t', step { s with dirtyBg := bg, dirtyDisp := disp, rdata := v } = .next t'
      ∧ { t' with dirtyBg := t.dirtyBg, dirtyDisp := t.dirtyDisp } = t

/-! ### The display port -/

/-- R172, R173 (and the registers and flags of R171, R174): once initialised the port exports RGB[0..1023] and
MONO[0..31]; the pixel at row r, column c is PIX(32r + c) with its colours in bytes 0 to 2, and the monochrome pixel is
bit 31 - c of its row. -/
def Obligations.DisplayExports : Prop :=
  ∀ s : State, s.initialised = true →
    ∃ d, displayPort s = some d
      ∧ d.segL = s.segL ∧ d.segR = s.segR ∧ d.dirtyBg = s.dirtyBg ∧ d.dirtyDisp = s.dirtyDisp
      ∧ (∀ i : Fin 1024, d.pix[i.val] = s.rgbWord i.val) ∧ (∀ r : Fin 32, d.row[r.val] = s.monoWord r.val)
      ∧ (∀ r c : Fin 32, pixelAt d r c = s.rgbWord (32 * r.val + c.val)
          ∧ blueOf (pixelAt d r c) = s.rgb.read (4 * (32 * r.val + c.val))
          ∧ greenOf (pixelAt d r c) = s.rgb.read (4 * (32 * r.val + c.val) + 1)
          ∧ redOf (pixelAt d r c) = s.rgb.read (4 * (32 * r.val + c.val) + 2))
      ∧ (∀ r c : Fin 32, monoPixelAt d r c = (s.monoWord r.val).getLsbD (31 - c.val))

/-- R175, R178: what the port shows does not depend on the guard words. -/
def Obligations.DisplayIgnoresGuardWords : Prop :=
  ∀ s s' : State, s.initialised = s'.initialised → s.segR = s'.segR → s.segL = s'.segL →
    s.dirtyBg = s'.dirtyBg → s.dirtyDisp = s'.dirtyDisp →
    (∀ k, k < 4096 → s.rgb.read k = s'.rgb.read k) → (∀ k, k < 128 → s.mono.read k = s'.mono.read k) →
      displayPort s = displayPort s'

/-- R176: the text summary is two lower-case hexadecimal digits of SEG_L and then two of SEG_R, whatever the flags;
after RESTORE of segment_left 0xAB and segment_right 0xCD it is "abcd", whatever the buffers held. -/
def Obligations.TextSummary : Prop :=
  (∀ (d : DisplayPort) (bg disp : Bool),
      let digit := fun n : Nat =>
        ['0', '1', '2', '3', '4', '5', '6', '7', '8', '9', 'a', 'b', 'c', 'd', 'e', 'f'].getD n '?'
      textSummary { d with dirtyBg := bg, dirtyDisp := disp }
        = [digit (d.segL.toNat / 16), digit (d.segL.toNat % 16),
           digit (d.segR.toNat / 16), digit (d.segR.toNat % 16)])
    ∧ ∀ s : State, s.initialised = true →
        ∃ t, exec (.restore 0x0000000000CD00AB#64) s = .next t
          ∧ (displayPort t).map textSummary = some ['a', 'b', 'c', 'd']

/-- R177: a pass draws what the flags it reads ask for, in the order of R174 (background first, then left digit, right
digit, RGB widget, monochrome widget), and ends with one FRAME_DONE whether or not a flag was set, which clears both
flags and changes no storage; the pass after it, with nothing in between, draws nothing and leaves the block as it was.
A block that holds the refusal mark is left out: what a pass does there is the model's choice (log entry 15). -/
def Obligations.CompositionPassIdempotent : Prop :=
  ∀ s : State, s.initialised = true → s.refusedMark = none →
    (s.dirtyBg = false → s.dirtyDisp = false → (compositionPass s).1 = some [])
      ∧ (s.dirtyBg = true → s.dirtyDisp = false → (compositionPass s).1 = some [.background])
      ∧ (s.dirtyBg = false → s.dirtyDisp = true →
          (compositionPass s).1 = some [.leftDigit, .rightDigit, .rgbWidget, .monoWidget])
      ∧ (s.dirtyBg = true → s.dirtyDisp = true →
          (compositionPass s).1 = some [.background, .leftDigit, .rightDigit, .rgbWidget, .monoWidget])
      ∧ ∃ t, (compositionPass s).2 = .next t
          ∧ t = { s with dirtyBg := false, dirtyDisp := false, rdata := 0#64 }
          ∧ compositionPass t = (some [], .next t)

/-- R214: a WRITE sets DIRTY_DISP and an INVALIDATE sets both flags, and a FRAME_DONE performed after it clears the flag
before a pass has drawn the change: the port then shows the bytes written, a pass draws nothing, and the picture stays
stale until the next WRITE, INVALIDATE, RESET or RESTORE. -/
def Obligations.FrameDoneHazard : Prop :=
  ∀ s : State, s.initialised = true →
    (∀ (size : Size) (a : Offset) (v : Data),
        ∃ t u d, exec (writeInstr size a v) s = .next t ∧ t.dirtyDisp = true ∧ t.dirtyBg = s.dirtyBg
          ∧ exec .frameDone t = .next u
          ∧ u = { t with dirtyBg := false, dirtyDisp := false, rdata := 0#64 }
          ∧ displayPort u = some d
          ∧ (targetOf a = .segR → d.segR = v.extractLsb' 0 8 ∧ (2 ≤ size.bytes → d.segL = v.extractLsb' 8 8))
          ∧ (targetOf a = .segL → d.segL = v.extractLsb' 0 8)
          ∧ (targetOf a = .rgb → s.rgb.wf = true → ∀ k : Fin 4096,
              (rgbOffset a).toNat ≤ k.val → k.val < (rgbOffset a).toNat + size.bytes →
                (d.pix[k.val / 4]).extractLsb' (8 * (k.val % 4)) 8
                  = v.extractLsb' (8 * (k.val - (rgbOffset a).toNat)) 8)
          ∧ (targetOf a = .mono → s.mono.wf = true → ∀ k : Fin 128,
              (monoOffset a).toNat ≤ k.val → k.val < (monoOffset a).toNat + size.bytes →
                (d.row[k.val / 4]).extractLsb' (8 * (k.val % 4)) 8
                  = v.extractLsb' (8 * (k.val - (monoOffset a).toNat)) 8)
          ∧ drawList d = [] ∧ StaleUntilRedraw u)
      ∧ ∃ t u d, exec .invalidate s = .next t
          ∧ t = { s with dirtyBg := true, dirtyDisp := true, rdata := 0#64 }
          ∧ exec .frameDone t = .next u
          ∧ u = { s with dirtyBg := false, dirtyDisp := false, rdata := 0#64 }
          ∧ displayPort u = some d ∧ drawList d = [] ∧ StaleUntilRedraw u
end

