-- ==== Sys2Proof/Laws/Decode.lean ====
section
/-! SUPPORT. The fields of a command word, and what each mask and match of R89 says of them. -/

namespace Sys2Proof

/-! ### The command at the port

These come first in a proof about a command with its write data left open: they take the command apart before any
literal is computed with. -/

@[simp] theorem decode_mk (cmd : CmdWord) (v : Data) : decode ⟨cmd, v⟩ = decodeWord cmd v := rfl

@[simp] theorem decodeByFields_mk (cmd : CmdWord) (v : Data) : decodeByFields ⟨cmd, v⟩ = decodeFields cmd v := rfl

/-! ### Sizes -/

@[simp] theorem Size.ofCode_code (s : Size) : Size.ofCode s.code = s := by cases s <;> rfl

@[simp] theorem Size.code_ofCode (c : BitVec 2) : (Size.ofCode c).code = c := by
  revert c; decide

theorem Size.bytes_le (s : Size) : s.bytes ≤ 8 := by cases s <;> decide

theorem Size.bytes_pos (s : Size) : 0 < s.bytes := by cases s <;> decide

/-! ### A command word and its four fields (R81) -/

theorem getLsbD_pack (op rsv : BitVec 3) (size : BitVec 2) (addr : Offset) (j : Nat) :
    (pack op rsv size addr).getLsbD j
      = if j < 16 then addr.getLsbD j else if j < 18 then size.getLsbD (j - 16)
        else if j < 21 then rsv.getLsbD (j - 18) else op.getLsbD (j - 21) := by
  simp only [pack, BitVec.getLsbD_append]
  by_cases h0 : j < 16
  · simp [h0]
  by_cases h1 : j < 18
  · simp [h0, h1, show j - 16 < 2 by omega]
  by_cases h2 : j < 21
  · simp [h0, h1, h2, show ¬ j - 16 < 2 by omega, show j - 16 - 2 = j - 18 by omega,
      show ¬ 3 ≤ j - 18 by omega]
  · simp [h0, h1, h2, show ¬ j - 16 < 2 by omega, show ¬ j - 16 - 2 < 3 by omega,
      show j - 16 - 2 - 3 = j - 21 by omega]

@[simp] theorem opField_pack (op rsv : BitVec 3) (size : BitVec 2) (addr : Offset) :
    opField (pack op rsv size addr) = op := by
  apply BitVec.eq_of_getLsbD_eq
  intro j hj
  rw [opField, BitVec.getLsbD_extractLsb', getLsbD_pack, if_neg (by omega), if_neg (by omega),
    if_neg (by omega)]
  simp [hj]

@[simp] theorem rsvField_pack (op rsv : BitVec 3) (size : BitVec 2) (addr : Offset) :
    rsvField (pack op rsv size addr) = rsv := by
  apply BitVec.eq_of_getLsbD_eq
  intro j hj
  rw [rsvField, BitVec.getLsbD_extractLsb', getLsbD_pack, if_neg (by omega), if_neg (by omega),
    if_pos (by omega)]
  simp [hj]

@[simp] theorem sizeField_pack (op rsv : BitVec 3) (size : BitVec 2) (addr : Offset) :
    sizeField (pack op rsv size addr) = size := by
  apply BitVec.eq_of_getLsbD_eq
  intro j hj
  rw [sizeField, BitVec.getLsbD_extractLsb', getLsbD_pack, if_neg (by omega), if_pos (by omega)]
  simp [hj]

@[simp] theorem addrField_pack (op rsv : BitVec 3) (size : BitVec 2) (addr : Offset) :
    addrField (pack op rsv size addr) = addr := by
  apply BitVec.eq_of_getLsbD_eq
  intro j hj
  rw [addrField, BitVec.getLsbD_extractLsb', getLsbD_pack, if_pos (by omega)]
  simp [hj]

/-- A command word is its four fields. -/
theorem pack_fields (cmd : CmdWord) : pack (opField cmd) (rsvField cmd) (sizeField cmd) (addrField cmd) = cmd := by
  apply BitVec.eq_of_getLsbD_eq
  intro j hj
  rw [getLsbD_pack]
  simp only [opField, rsvField, sizeField, addrField, BitVec.getLsbD_extractLsb']
  by_cases h0 : j < 16
  · simp [h0]
  by_cases h1 : j < 18
  · simp [h0, h1, show j - 16 < 2 by omega, show 16 + (j - 16) = j by omega]
  by_cases h2 : j < 21
  · simp [h0, h1, h2, show j - 18 < 3 by omega, show 18 + (j - 18) = j by omega]
  · simp [h0, h1, h2, show j - 21 < 3 by omega, show 21 + (j - 21) = j by omega]

/-- Two command words with the same fields are equal. -/
theorem pack_inj {op op' rsv rsv' : BitVec 3} {size size' : BitVec 2} {addr addr' : Offset} :
    pack op rsv size addr = pack op' rsv' size' addr' ↔ op = op' ∧ rsv = rsv' ∧ size = size' ∧ addr = addr' := by
  constructor
  · intro h
    exact ⟨by simpa using congrArg opField h, by simpa using congrArg rsvField h,
      by simpa using congrArg sizeField h, by simpa using congrArg addrField h⟩
  · rintro ⟨rfl, rfl, rfl, rfl⟩; rfl

/-- A mask of four fields masks each field. -/
theorem pack_and (op op' rsv rsv' : BitVec 3) (size size' : BitVec 2) (addr addr' : Offset) :
    pack op rsv size addr &&& pack op' rsv' size' addr'
      = pack (op &&& op') (rsv &&& rsv') (size &&& size') (addr &&& addr') := by
  apply BitVec.eq_of_getLsbD_eq
  intro j _
  simp only [BitVec.getLsbD_and, getLsbD_pack]
  split
  · rfl
  split
  · rfl
  split <;> rfl

/-- A mask and match of R89 say of each field what its own bits of the mask and match say. -/
theorem mask_match_iff (cmd : CmdWord) (op op' rsv rsv' : BitVec 3) (size size' : BitVec 2) (addr addr' : Offset) :
    cmd &&& pack op rsv size addr = pack op' rsv' size' addr'
      ↔ opField cmd &&& op = op' ∧ rsvField cmd &&& rsv = rsv' ∧ sizeField cmd &&& size = size'
        ∧ addrField cmd &&& addr = addr' := by
  conv_lhs => rw [← pack_fields cmd, pack_and]
  exact pack_inj

theorem and_allOnes3 (x : BitVec 3) : x &&& 7#3 = x := by revert x; decide
theorem and_allOnes2 (x : BitVec 2) : x &&& 3#2 = x := by revert x; decide
theorem and_allOnes16 (x : BitVec 16) : x &&& 0xFFFF#16 = x := BitVec.and_allOnes
theorem and_zero3 (x : BitVec 3) : x &&& 0#3 = 0#3 := BitVec.and_zero
theorem and_zero2 (x : BitVec 2) : x &&& 0#2 = 0#2 := BitVec.and_zero
theorem and_zero16 (x : BitVec 16) : x &&& 0#16 = 0#16 := BitVec.and_zero

/-- Row 1 of R89: the reserved field. -/
theorem rsv_mask_iff (cmd : CmdWord) : cmd &&& 0x1C0000#24 = 0#24 ↔ rsvField cmd = 0#3 := by
  have h := mask_match_iff cmd 0 0 7 0 0 0 0 0
  rw [show pack 0 7 0 0 = 0x1C0000#24 from rfl, show pack 0 0 0 0 = 0#24 from rfl] at h
  simpa [and_allOnes3] using h

/-- A row whose mask is 0xFFFFFF: the whole word (rows 2 and 13 to 17). -/
theorem word_mask_iff (cmd m : CmdWord) : cmd &&& 0xFFFFFF#24 = m ↔ cmd = m := by
  rw [show (0xFFFFFF#24) = BitVec.allOnes 24 from rfl, BitVec.and_allOnes]

/-- A row whose mask is 0xFCFFFF: OP, RSV and the whole ADDR (rows 3, 4, 8 and 9). -/
theorem addr_mask_iff (cmd : CmdWord) (op : BitVec 3) (addr : Offset) :
    cmd &&& 0xFCFFFF#24 = pack op 0#3 0#2 addr ↔ opField cmd = op ∧ rsvField cmd = 0#3 ∧ addrField cmd = addr := by
  have h := mask_match_iff cmd 7 op 7 0 0 0 0xFFFF addr
  rw [show pack 7 7 0 0xFFFF = 0xFCFFFF#24 from rfl] at h
  simpa [and_allOnes3, and_allOnes16] using h

/-- A row whose mask is 0xFCF000: OP, RSV and the top four bits of ADDR (rows 5 and 10). -/
theorem rgb_mask_iff (cmd : CmdWord) (op : BitVec 3) (addr : Offset) :
    cmd &&& 0xFCF000#24 = pack op 0#3 0#2 addr
      ↔ opField cmd = op ∧ rsvField cmd = 0#3 ∧ addrField cmd &&& 0xF000#16 = addr := by
  have h := mask_match_iff cmd 7 op 7 0 0 0 0xF000 addr
  rw [show pack 7 7 0 0xF000 = 0xFCF000#24 from rfl] at h
  simpa [and_allOnes3] using h

/-- A row whose mask is 0xFCFF80: OP, RSV and the top nine bits of ADDR (rows 6 and 11). -/
theorem mono_mask_iff (cmd : CmdWord) (op : BitVec 3) (addr : Offset) :
    cmd &&& 0xFCFF80#24 = pack op 0#3 0#2 addr
      ↔ opField cmd = op ∧ rsvField cmd = 0#3 ∧ addrField cmd &&& 0xFF80#16 = addr := by
  have h := mask_match_iff cmd 7 op 7 0 0 0 0xFF80 addr
  rw [show pack 7 7 0 0xFF80 = 0xFCFF80#24 from rfl] at h
  simpa [and_allOnes3] using h

/-- A row whose mask is 0xFC0000: OP and RSV (rows 7 and 12). -/
theorem op_mask_iff (cmd : CmdWord) (op : BitVec 3) :
    cmd &&& 0xFC0000#24 = pack op 0#3 0#2 0#16 ↔ opField cmd = op ∧ rsvField cmd = 0#3 := by
  have h := mask_match_iff cmd 7 op 7 0 0 0 0 0
  rw [show pack 7 7 0 0 = 0xFC0000#24 from rfl] at h
  simpa [and_allOnes3] using h

/-! ### Addresses -/

/-- The `a` bits of a word with its fields (rows 5 and 10). -/
theorem low12_pack (op rsv : BitVec 3) (size : BitVec 2) (addr : Offset) :
    (pack op rsv size addr).extractLsb' 0 12 = addr.setWidth 12 := by
  apply BitVec.eq_of_getLsbD_eq
  intro j hj
  rw [BitVec.getLsbD_extractLsb', getLsbD_pack, if_pos (by omega)]
  simp [hj]

/-- The `a` bits of a word with its fields (rows 6 and 11). -/
theorem low7_pack (op rsv : BitVec 3) (size : BitVec 2) (addr : Offset) :
    (pack op rsv size addr).extractLsb' 0 7 = addr.setWidth 7 := by
  apply BitVec.eq_of_getLsbD_eq
  intro j hj
  rw [BitVec.getLsbD_extractLsb', getLsbD_pack, if_pos (by omega)]
  simp [hj]

theorem toNat_rgbAddr (off : BitVec 12) : (rgbAddr off).toNat = 0x4000 + off.toNat := by
  have h := off.isLt
  simp only [rgbAddr, BitVec.toNat_append, BitVec.toNat_ofNat]
  rw [← Nat.shiftLeft_add_eq_or_of_lt h]
  rfl

theorem toNat_monoAddr (off : BitVec 7) : (monoAddr off).toNat = 0x8000 + off.toNat := by
  have h := off.isLt
  simp only [monoAddr, BitVec.toNat_append, BitVec.toNat_ofNat]
  rw [← Nat.shiftLeft_add_eq_or_of_lt h]
  rfl

theorem rgbOffset_rgbAddr (off : BitVec 12) : rgbOffset (rgbAddr off) = off := by
  apply BitVec.eq_of_toNat_eq
  have h := off.isLt
  simp only [rgbOffset, BitVec.toNat_setWidth, BitVec.toNat_sub, toNat_rgbAddr,
    show (0x4000#16).toNat = 0x4000 from rfl]
  omega

theorem monoOffset_monoAddr (off : BitVec 7) : monoOffset (monoAddr off) = off := by
  apply BitVec.eq_of_toNat_eq
  have h := off.isLt
  simp only [monoOffset, BitVec.toNat_setWidth, BitVec.toNat_sub, toNat_monoAddr,
    show (0x8000#16).toNat = 0x8000 from rfl]
  omega

end Sys2Proof
end

