-- ==== Sys2Proof/Laws/Memory.lean ====
section
/-! SUPPORT. The laws of one buffer's bytes: a read after a write, and the canonical form kept by every operation. -/

namespace Sys2Proof.Machine

/-! ### Reads -/

@[simp] theorem Memory.read_nil (k : Nat) : Memory.read [] k = 0#8 := rfl

@[simp] theorem Memory.read_zeroed (k : Nat) : Memory.read Memory.zeroed k = 0#8 := rfl

theorem Memory.read_cons (a : Nat) (x : Byte) (m : Memory) (k : Nat) :
    Memory.read ((a, x) :: m) k = if a = k then x else Memory.read m k := rfl

theorem Memory.wfAbove_cons {low a : Nat} {x : Byte} {m : Memory} :
    Memory.wfAbove low ((a, x) :: m) = true ↔ low ≤ a ∧ x ≠ 0#8 ∧ Memory.wfAbove (a + 1) m = true := by
  simp [Memory.wfAbove, and_assoc]

theorem Memory.wfAbove_mono {m : Memory} {low low' : Nat} (h : low' ≤ low)
    (hm : Memory.wfAbove low m = true) : Memory.wfAbove low' m = true := by
  cases m with
  | nil => rfl
  | cons cell rest =>
    obtain ⟨a, x⟩ := cell
    rw [Memory.wfAbove_cons] at hm ⊢
    exact ⟨by omega, hm.2⟩

/-- Below its lowest index a canonical buffer reads as zero. -/
theorem Memory.read_below {m : Memory} {low k : Nat} (hm : Memory.wfAbove low m = true) (hk : k < low) :
    m.read k = 0#8 := by
  induction m generalizing low with
  | nil => rfl
  | cons cell rest ih =>
    obtain ⟨a, x⟩ := cell
    rw [Memory.wfAbove_cons] at hm
    rw [Memory.read_cons, if_neg (by omega)]
    exact ih hm.2.2 (by omega)

/-! ### A read after a write -/

theorem Memory.read_entry (k : Nat) (b : Byte) (rest : Memory) (j : Nat) :
    Memory.read (Memory.entry k b rest) j
      = if k = j then (if b = 0#8 then Memory.read rest j else b) else Memory.read rest j := by
  unfold Memory.entry
  split
  · simp
  · rw [Memory.read_cons]

theorem Memory.read_entry_of_zero {k : Nat} {b : Byte} {rest : Memory} (hz : rest.read k = 0#8) (j : Nat) :
    Memory.read (Memory.entry k b rest) j = if j = k then b else Memory.read rest j := by
  rw [Memory.read_entry]
  by_cases hj : j = k
  · subst hj
    by_cases hb : b = 0#8
    · rw [if_pos rfl, if_pos hb, if_pos rfl, hz, hb]
    · rw [if_pos rfl, if_neg hb, if_pos rfl]
  · rw [if_neg (Ne.symm hj), if_neg hj]

/-- A write gives its byte the value and leaves every other byte alone (R53). -/
theorem Memory.read_write_above {m : Memory} {low : Nat} (hm : Memory.wfAbove low m = true) (k : Nat) (b : Byte)
    (j : Nat) : (m.write k b).read j = if j = k then b else m.read j := by
  induction m generalizing low with
  | nil =>
    exact Memory.read_entry_of_zero rfl j
  | cons cell rest ih =>
    obtain ⟨a, x⟩ := cell
    rw [Memory.wfAbove_cons] at hm
    unfold Memory.write
    split
    · rename_i hlt
      refine Memory.read_entry_of_zero ?_ j
      rw [Memory.read_cons, if_neg (by omega)]
      exact Memory.read_below hm.2.2 (by omega)
    · split
      · rename_i heq
        subst heq
        rw [Memory.read_entry_of_zero (Memory.read_below hm.2.2 (by omega)), Memory.read_cons]
        by_cases hj : j = k
        · rw [if_pos hj, if_pos hj]
        · rw [if_neg hj, if_neg hj, if_neg (Ne.symm hj)]
      · rename_i hne
        rw [Memory.read_cons, Memory.read_cons, ih hm.2.2]
        by_cases hj : a = j
        · subst hj; simp [Ne.symm hne]
        · simp [hj]

/-- A write gives its byte the value and leaves every other byte alone (R53). -/
theorem Memory.read_write {m : Memory} (hm : m.wf = true) (k : Nat) (b : Byte) (j : Nat) :
    (m.write k b).read j = if j = k then b else m.read j :=
  Memory.read_write_above hm k b j

/-! ### The canonical form is kept -/

theorem Memory.wf_zeroed : Memory.zeroed.wf = true := rfl

theorem Memory.wfAbove_entry {low k : Nat} {b : Byte} {rest : Memory} (hk : low ≤ k)
    (hr : Memory.wfAbove (k + 1) rest = true) : Memory.wfAbove low (Memory.entry k b rest) = true := by
  unfold Memory.entry
  split
  · exact Memory.wfAbove_mono (by omega) hr
  · rename_i hb
    exact Memory.wfAbove_cons.2 ⟨hk, hb, hr⟩

theorem Memory.wfAbove_write {m : Memory} {low k : Nat} (b : Byte) (hk : low ≤ k)
    (hm : Memory.wfAbove low m = true) : Memory.wfAbove low (m.write k b) = true := by
  induction m generalizing low with
  | nil => exact Memory.wfAbove_entry hk rfl
  | cons cell rest ih =>
    obtain ⟨a, x⟩ := cell
    have hm' := Memory.wfAbove_cons.1 hm
    unfold Memory.write
    split
    · rename_i hlt
      exact Memory.wfAbove_entry hk (Memory.wfAbove_cons.2 ⟨by omega, hm'.2.1, hm'.2.2⟩)
    · split
      · rename_i heq
        subst heq
        exact Memory.wfAbove_entry hk hm'.2.2
      · exact Memory.wfAbove_cons.2 ⟨hm'.1, hm'.2.1, ih (by omega) hm'.2.2⟩

/-- A write keeps the canonical form. -/
theorem Memory.wf_write {m : Memory} (hm : m.wf = true) (k : Nat) (b : Byte) : (m.write k b).wf = true :=
  Memory.wfAbove_write b (Nat.zero_le k) hm

/-- A view given byte by byte is in canonical form. -/
theorem Memory.wf_fill (f : Nat → Byte) (n : Nat) : (Memory.fill f n).wf = true := by
  induction n with
  | zero => rfl
  | succ n ih => exact Memory.wf_write ih n (f n)

/-- Byte k of a view given byte by byte, and zero past its end. -/
theorem Memory.read_fill (f : Nat → Byte) (n k : Nat) :
    (Memory.fill f n).read k = if k < n then f k else 0#8 := by
  induction n with
  | zero => rfl
  | succ n ih =>
    rw [Memory.fill, Memory.read_write (Memory.wf_fill f n), ih]
    by_cases hk : k = n
    · rw [if_pos hk, if_pos (by omega), hk]
    · rw [if_neg hk]
      by_cases hlt : k < n
      · rw [if_pos hlt, if_pos (by omega)]
      · rw [if_neg hlt, if_neg (by omega)]

/-! ### The entries stay inside the allocation (R57) -/

theorem Memory.within_zeroed (n : Nat) : Memory.zeroed.within n = true := rfl

theorem Memory.within_mono {m : Memory} {n n' : Nat} (h : n ≤ n') (hm : m.within n = true) :
    m.within n' = true := by
  simp only [Memory.within, List.all_eq_true, decide_eq_true_eq] at hm ⊢
  exact fun cell hc => Nat.lt_of_lt_of_le (hm cell hc) h

theorem Memory.within_entry {n k : Nat} {b : Byte} {rest : Memory} (hk : k < n) (hr : rest.within n = true) :
    (Memory.entry k b rest).within n = true := by
  unfold Memory.entry
  split
  · exact hr
  · simp only [Memory.within, List.all_cons, decide_eq_true_eq, Bool.and_eq_true]
    exact ⟨hk, hr⟩

/-- A write inside an allocation leaves every entry inside it. -/
theorem Memory.within_write {m : Memory} {n k : Nat} (b : Byte) (hk : k < n) (hm : m.within n = true) :
    (m.write k b).within n = true := by
  induction m with
  | nil => exact Memory.within_entry hk rfl
  | cons cell rest ih =>
    obtain ⟨a, x⟩ := cell
    have hr : Memory.within n rest = true := by
      simp only [Memory.within, List.all_cons, Bool.and_eq_true] at hm ⊢
      exact hm.2
    have ha : a < n := by
      simp only [Memory.within, List.all_cons, Bool.and_eq_true, decide_eq_true_eq] at hm
      exact hm.1
    unfold Memory.write
    split
    · exact Memory.within_entry hk hm
    · split
      · exact Memory.within_entry hk hr
      · simp only [Memory.within, List.all_cons, Bool.and_eq_true, decide_eq_true_eq]
        exact ⟨ha, ih hr⟩

/-- A view given byte by byte lies inside its allocation. -/
theorem Memory.within_fill (f : Nat → Byte) (n : Nat) : (Memory.fill f n).within n = true := by
  induction n with
  | zero => rfl
  | succ n ih =>
    exact Memory.within_write (f n) (Nat.lt_succ_self n) (Memory.within_mono (Nat.le_succ n) ih)

theorem Memory.wf_ofBytes (f : Nat → Byte) (n : Nat) : (Memory.ofBytes f n).wf = true := by
  unfold Memory.ofBytes; exact Memory.wf_fill f n

theorem Memory.within_ofBytes (f : Nat → Byte) (n : Nat) : (Memory.ofBytes f n).within n = true := by
  unfold Memory.ofBytes; exact Memory.within_fill f n

/-- Byte k of the power-on contents is the unspecified byte k (R34). -/
theorem Memory.read_ofBytes (f : Nat → Byte) (n k : Nat) :
    (Memory.ofBytes f n).read k = if k < n then f k else 0#8 := by
  unfold Memory.ofBytes; exact Memory.read_fill f n k

/-! ### Equal bytes, equal data -/

theorem Memory.eq_of_read_above {m m' : Memory} {low : Nat} (hm : Memory.wfAbove low m = true)
    (hm' : Memory.wfAbove low m' = true) (h : ∀ k, m.read k = m'.read k) : m = m' := by
  induction m generalizing m' low with
  | nil =>
    cases m' with
    | nil => rfl
    | cons cell rest =>
      obtain ⟨a, x⟩ := cell
      have := h a
      rw [Memory.read_cons, if_pos rfl] at this
      exact absurd this.symm (Memory.wfAbove_cons.1 hm').2.1
  | cons cell rest ih =>
    obtain ⟨a, x⟩ := cell
    have hc := Memory.wfAbove_cons.1 hm
    cases m' with
    | nil =>
      have := h a
      rw [Memory.read_cons, if_pos rfl] at this
      exact absurd this hc.2.1
    | cons cell' rest' =>
      obtain ⟨a', x'⟩ := cell'
      have hc' := Memory.wfAbove_cons.1 hm'
      have haa : a = a' := by
        rcases Nat.lt_trichotomy a a' with hlt | heq | hgt
        · have := h a
          rw [Memory.read_cons, if_pos rfl, Memory.read_cons, if_neg (by omega),
            Memory.read_below hc'.2.2 (by omega)] at this
          exact absurd this hc.2.1
        · exact heq
        · have := h a'
          rw [Memory.read_cons, if_neg (by omega), Memory.read_below hc.2.2 (by omega), Memory.read_cons,
            if_pos rfl] at this
          exact absurd this.symm hc'.2.1
      subst haa
      have hx : x = x' := by
        have := h a
        rwa [Memory.read_cons, if_pos rfl, Memory.read_cons, if_pos rfl] at this
      subst hx
      congr 1
      refine ih hc.2.2 hc'.2.2 fun k => ?_
      by_cases hk : a = k
      · subst hk
        rw [Memory.read_below hc.2.2 (by omega), Memory.read_below hc'.2.2 (by omega)]
      · have := h k
        rwa [Memory.read_cons, if_neg hk, Memory.read_cons, if_neg hk] at this

/-- Two buffers in canonical form that read alike are the same data. -/
theorem Memory.eq_of_read {m m' : Memory} (hm : m.wf = true) (hm' : m'.wf = true)
    (h : ∀ k, m.read k = m'.read k) : m = m' :=
  Memory.eq_of_read_above hm hm' h

end Sys2Proof.Machine
end

