-- ==== Sys2Proof/Laws/Region.lean ====
section
/-! SUPPORT. What the region primitives do, byte by byte and bit by bit: the provers cite these and unfold neither
loop. -/

namespace Sys2Proof.Machine

/-! ### Bytes of a bus value -/

theorem byteOf_getLsbD (v : Data) (i j : Nat) :
    (byteOf v i).getLsbD j = (decide (j < 8) && v.getLsbD (8 * i + j)) := by
  simp [byteOf, BitVec.getLsbD_extractLsb']

/-- A bit of a bus value is a bit of its byte. -/
theorem getLsbD_eq_byteOf (v : Data) (j : Nat) : v.getLsbD j = (byteOf v (j / 8)).getLsbD (j % 8) := by
  rw [byteOf_getLsbD, decide_eq_true (Nat.mod_lt j (by omega)), Bool.true_and, Nat.div_add_mod]

/-- Two bus values with the same eight bytes are equal. -/
theorem eq_of_byteOf_eq {v v' : Data} (h : ∀ i, i < 8 → byteOf v i = byteOf v' i) : v = v' := by
  apply BitVec.eq_of_getLsbD_eq
  intro j hj
  rw [getLsbD_eq_byteOf v j, getLsbD_eq_byteOf v' j, h (j / 8) (by omega)]

/-! ### RegionRead (R55) -/

/-- Bit j of a region read is bit j % 8 of byte off + j / 8; the bits above the width are zero. -/
theorem regionRead_getLsbD (m : Memory) (off n j : Nat) :
    (regionRead m off n).getLsbD j
      = (decide (j < 64) && decide (j < 8 * n) && (m.read (off + j / 8)).getLsbD (j % 8)) := by
  induction n with
  | zero => simp [regionRead]
  | succ n ih =>
    rw [regionRead, BitVec.getLsbD_or, ih, BitVec.getLsbD_shiftLeft, BitVec.getLsbD_setWidth]
    by_cases h64 : j < 64
    · by_cases hlow : j < 8 * n
      · simp [h64, hlow, show j < 8 * (n + 1) by omega]
      · by_cases hhigh : j < 8 * (n + 1)
        · have hdiv : j / 8 = n := by omega
          have hmod : j - 8 * n = j % 8 := by omega
          simp [h64, hlow, hhigh, hdiv, hmod, show j % 8 < 64 by omega]
        · have : (m.read (off + n)).getLsbD (j - 8 * n) = false :=
            BitVec.getLsbD_of_ge _ _ (by omega)
          simp [hlow, hhigh, this]
    · simp [h64]

/-- Byte i of a region read is byte off + i of the view, and zero above the width (R55). -/
theorem byteOf_regionRead (m : Memory) (off n i : Nat) (hi : i < 8) :
    byteOf (regionRead m off n) i = if i < n then m.read (off + i) else 0#8 := by
  apply BitVec.eq_of_getLsbD_eq
  intro j hj
  have hdiv : (8 * i + j) / 8 = i := by omega
  have hmod : (8 * i + j) % 8 = j := by omega
  rw [byteOf_getLsbD, regionRead_getLsbD, hdiv, hmod]
  by_cases hin : i < n
  · simp [hj, hin, show 8 * i + j < 64 by omega, show 8 * i + j < 8 * n by omega]
  · simp [hin, show ¬ 8 * i + j < 8 * n by omega]

/-- A region read depends on the bytes it spans and on no other. -/
theorem regionRead_congr {m m' : Memory} {off n : Nat} (h : ∀ i, i < n → m.read (off + i) = m'.read (off + i)) :
    regionRead m off n = regionRead m' off n := by
  induction n with
  | zero => rfl
  | succ n ih =>
    rw [regionRead, regionRead, ih fun i hi => h i (by omega), h n (Nat.lt_succ_self n)]

/-! ### RegionWrite (R56) -/

theorem wf_regionWrite {m : Memory} (hm : m.wf = true) (off : Nat) (v : Data) (n : Nat) :
    (regionWrite m off v n).wf = true := by
  induction n with
  | zero => exact hm
  | succ n ih => exact Memory.wf_write ih _ _

/-- A region write inside an allocation leaves every entry inside it (R57). -/
theorem within_regionWrite {m : Memory} {size off n : Nat} (v : Data) (hn : off + n ≤ size)
    (hm : m.within size = true) : (regionWrite m off v n).within size = true := by
  induction n with
  | zero => exact hm
  | succ n ih => exact Memory.within_write _ (by omega) (ih (by omega))

/-- A region write gives bytes off to off + n - 1 the bytes of v and changes no other byte (R56). -/
theorem read_regionWrite {m : Memory} (hm : m.wf = true) (off : Nat) (v : Data) (n k : Nat) :
    (regionWrite m off v n).read k
      = if off ≤ k ∧ k < off + n then byteOf v (k - off) else m.read k := by
  induction n with
  | zero => rw [if_neg (by omega)]; rfl
  | succ n ih =>
    rw [regionWrite, Memory.read_write (wf_regionWrite hm off v n), ih]
    by_cases hk : k = off + n
    · subst hk
      rw [if_pos rfl, if_pos (by omega), Nat.add_sub_cancel_left]
    · rw [if_neg hk]
      by_cases hin : off ≤ k ∧ k < off + n
      · rw [if_pos hin, if_pos (by omega)]
      · rw [if_neg hin, if_neg (by omega)]

/-! ### Words and windows -/

/-- Bit j of word i is bit j % 8 of byte 4i + j / 8 (R53). -/
theorem wordAt_getLsbD (m : Memory) (i j : Nat) :
    (wordAt m i).getLsbD j = (decide (j < 32) && (m.read (4 * i + j / 8)).getLsbD (j % 8)) := by
  simp only [wordAt, BitVec.getLsbD_append]
  rcases Nat.lt_or_ge j 8 with h0 | h0
  · simp [h0, show j < 32 by omega, show j / 8 = 0 by omega, show j % 8 = j by omega]
  rcases Nat.lt_or_ge j 16 with h1 | h1
  · simp [show ¬ j < 8 by omega, show j - 8 < 8 by omega, show j < 32 by omega,
      show j / 8 = 1 by omega, show j % 8 = j - 8 by omega]
  rcases Nat.lt_or_ge j 24 with h2 | h2
  · simp [show ¬ j < 8 by omega, show ¬ j - 8 < 8 by omega, show j - 8 - 8 < 8 by omega,
      show j < 32 by omega, show j / 8 = 2 by omega, show j % 8 = j - 8 - 8 by omega]
  rcases Nat.lt_or_ge j 32 with h3 | h3
  · simp [show ¬ j < 8 by omega, show ¬ j - 8 < 8 by omega, show ¬ j - 8 - 8 < 8 by omega, h3,
      show j / 8 = 3 by omega, show j % 8 = j - 8 - 8 - 8 by omega]
  · have : (m.read (4 * i + 3)).getLsbD (j - 8 - 8 - 8) = false := BitVec.getLsbD_of_ge _ _ (by omega)
    simp [show ¬ j < 8 by omega, show ¬ j - 8 < 8 by omega, show ¬ j - 8 - 8 < 8 by omega,
      show ¬ j < 32 by omega, this]

/-- Byte j of word i is byte 4i + j of the view (R53). -/
theorem wordAt_byte (m : Memory) (i j : Nat) (hj : j < 4) :
    (wordAt m i).extractLsb' (8 * j) 8 = m.read (4 * i + j) := by
  apply BitVec.eq_of_getLsbD_eq
  intro b hb
  rw [BitVec.getLsbD_extractLsb', wordAt_getLsbD]
  simp [hb, show 8 * j + b < 32 by omega, show (8 * j + b) / 8 = j by omega, show (8 * j + b) % 8 = b by omega]

/-- A word depends on its four bytes alone. -/
theorem wordAt_congr {m m' : Memory} {i : Nat} (h : ∀ j, j < 4 → m.read (4 * i + j) = m'.read (4 * i + j)) :
    wordAt m i = wordAt m' i := by
  simp only [wordAt]
  rw [h 3 (by omega), h 2 (by omega), h 1 (by omega)]
  have := h 0 (by omega)
  rw [Nat.add_zero] at this
  rw [this]

@[simp] theorem wordAt_zeroed (i : Nat) : wordAt Memory.zeroed i = 0#32 := by
  simp only [wordAt, Memory.read_zeroed]
  decide

@[simp] theorem wordAt_nil (i : Nat) : wordAt [] i = 0#32 := wordAt_zeroed i

theorem wf_setWord {m : Memory} (hm : m.wf = true) (i : Nat) (v : Word32) : (setWord m i v).wf = true :=
  Memory.wf_write (Memory.wf_write (Memory.wf_write (Memory.wf_write hm _ _) _ _) _ _) _ _

/-- A[i] <- v sets the four bytes of word i and no other. -/
theorem read_setWord {m : Memory} (hm : m.wf = true) (i : Nat) (v : Word32) (k : Nat) :
    (setWord m i v).read k = if k / 4 = i then v.extractLsb' (8 * (k % 4)) 8 else m.read k := by
  have h0 := Memory.wf_write hm (4 * i) (v.extractLsb' 0 8)
  have h1 := Memory.wf_write h0 (4 * i + 1) (v.extractLsb' 8 8)
  have h2 := Memory.wf_write h1 (4 * i + 2) (v.extractLsb' 16 8)
  rw [setWord, Memory.read_write h2, Memory.read_write h1, Memory.read_write h0, Memory.read_write hm]
  by_cases h : k / 4 = i
  · rw [if_pos h]
    have hk : k % 4 = 0 ∨ k % 4 = 1 ∨ k % 4 = 2 ∨ k % 4 = 3 := by omega
    rcases hk with hk | hk | hk | hk <;> rw [hk]
    · rw [if_neg (by omega), if_neg (by omega), if_neg (by omega), if_pos (by omega)]
    · rw [if_neg (by omega), if_neg (by omega), if_pos (by omega)]
    · rw [if_neg (by omega), if_pos (by omega)]
    · rw [if_pos (by omega)]
  · rw [if_neg h, if_neg (by omega), if_neg (by omega), if_neg (by omega), if_neg (by omega)]

/-- Bit j of the window at word k is bit j % 8 of byte 4k + j / 8 (R55). -/
theorem window_getLsbD (m : Memory) (k j : Nat) :
    (window m k).getLsbD j = (decide (j < 96) && (m.read (4 * k + j / 8)).getLsbD (j % 8)) := by
  simp only [window, BitVec.getLsbD_append, wordAt_getLsbD]
  rcases Nat.lt_or_ge j 32 with h0 | h0
  · simp [h0, show j < 96 by omega]
  rcases Nat.lt_or_ge j 64 with h1 | h1
  · simp [show ¬ j < 32 by omega, show j - 32 < 32 by omega, show j < 96 by omega,
      show 4 * (k + 1) + (j - 32) / 8 = 4 * k + j / 8 by omega, show (j - 32) % 8 = j % 8 by omega]
  rcases Nat.lt_or_ge j 96 with h2 | h2
  · simp [show ¬ j < 32 by omega, show ¬ j - 32 < 32 by omega, show j - 32 - 32 < 32 by omega, h2,
      show 4 * (k + 2) + (j - 32 - 32) / 8 = 4 * k + j / 8 by omega,
      show (j - 32 - 32) % 8 = j % 8 by omega]
  · simp [show ¬ j < 32 by omega, show ¬ j - 32 < 32 by omega, show ¬ j - 32 - 32 < 32 by omega,
      show ¬ j < 96 by omega]

/-! ### The saved image (R154, R155) -/

/-- The image SAVE drives is one RESTORE accepts, and its fields are the registers. -/
theorem savedImage_fields (s : State) :
    imageInRange s.savedImage = true ∧ imageRight s.savedImage = s.segR ∧ imageLeft s.savedImage = s.segL := by
  have hbit : ∀ j, s.savedImage.getLsbD j
      = if j < 16 then s.segL.getLsbD j else if j < 32 then s.segR.getLsbD (j - 16) else false := by
    intro j
    simp only [State.savedImage, BitVec.getLsbD_append, BitVec.getLsbD_setWidth, BitVec.getLsbD_zero]
    by_cases h0 : j < 16
    · simp [h0, show j < 32 by omega]
    · by_cases h1 : j < 32
      · simp [h0, h1, show j - 16 < 16 by omega]
      · simp [h0, h1]
  refine ⟨?_, ?_, ?_⟩
  · simp only [imageInRange, Bool.and_eq_true, decide_eq_true_eq]
    refine ⟨⟨?_, ?_⟩, ?_⟩ <;> apply BitVec.eq_of_getLsbD_eq <;> intro j hj <;>
      rw [BitVec.getLsbD_extractLsb', hbit]
    · rw [if_pos (by omega), BitVec.getLsbD_of_ge _ _ (by omega)]; simp
    · rw [if_neg (by omega), if_pos (by omega), BitVec.getLsbD_of_ge _ _ (by omega)]; simp
    · rw [if_neg (by omega), if_neg (by omega)]; simp
  · apply BitVec.eq_of_getLsbD_eq
    intro j hj
    rw [imageRight, BitVec.getLsbD_extractLsb', hbit, if_neg (by omega), if_pos (by omega)]
    simp [hj]
  · apply BitVec.eq_of_getLsbD_eq
    intro j hj
    rw [imageLeft, BitVec.getLsbD_extractLsb', hbit, if_pos (by omega)]
    simp [hj]

end Sys2Proof.Machine
end

