-- ==== Sys2Proof/Laws/State.lean ====
section
/-! SUPPORT. Every field after every named update of the state, true by rfl. -/

namespace Sys2Proof.Machine

variable (s : State)

/-! ### respond -/

@[simp] theorem State.respond_segR (v : Data) : (s.respond v).segR = s.segR := rfl
@[simp] theorem State.respond_segL (v : Data) : (s.respond v).segL = s.segL := rfl
@[simp] theorem State.respond_rgb (v : Data) : (s.respond v).rgb = s.rgb := rfl
@[simp] theorem State.respond_mono (v : Data) : (s.respond v).mono = s.mono := rfl
@[simp] theorem State.respond_dirtyBg (v : Data) : (s.respond v).dirtyBg = s.dirtyBg := rfl
@[simp] theorem State.respond_dirtyDisp (v : Data) : (s.respond v).dirtyDisp = s.dirtyDisp := rfl
@[simp] theorem State.respond_rdata (v : Data) : (s.respond v).rdata = v := rfl
@[simp] theorem State.respond_initialised (v : Data) : (s.respond v).initialised = s.initialised := rfl
@[simp] theorem State.respond_refusedMark (v : Data) : (s.respond v).refusedMark = s.refusedMark := rfl
@[simp] theorem State.respond_pending (v : Data) : (s.respond v).pending = s.pending := rfl

/-! ### takeEvent -/

@[simp] theorem State.takeEvent_segR (rest : List PortEvent) : (s.takeEvent rest).segR = s.segR := rfl
@[simp] theorem State.takeEvent_segL (rest : List PortEvent) : (s.takeEvent rest).segL = s.segL := rfl
@[simp] theorem State.takeEvent_rgb (rest : List PortEvent) : (s.takeEvent rest).rgb = s.rgb := rfl
@[simp] theorem State.takeEvent_mono (rest : List PortEvent) : (s.takeEvent rest).mono = s.mono := rfl
@[simp] theorem State.takeEvent_dirtyBg (rest : List PortEvent) : (s.takeEvent rest).dirtyBg = s.dirtyBg := rfl
@[simp] theorem State.takeEvent_dirtyDisp (rest : List PortEvent) : (s.takeEvent rest).dirtyDisp = s.dirtyDisp := rfl
@[simp] theorem State.takeEvent_rdata (rest : List PortEvent) : (s.takeEvent rest).rdata = s.rdata := rfl
@[simp] theorem State.takeEvent_initialised (rest : List PortEvent) : (s.takeEvent rest).initialised = s.initialised := rfl
@[simp] theorem State.takeEvent_refusedMark (rest : List PortEvent) : (s.takeEvent rest).refusedMark = s.refusedMark := rfl
@[simp] theorem State.takeEvent_pending (rest : List PortEvent) : (s.takeEvent rest).pending = rest := rfl

/-! ### setSegs -/

@[simp] theorem State.setSegs_segR (r l : Byte) : (s.setSegs r l).segR = r := rfl
@[simp] theorem State.setSegs_segL (r l : Byte) : (s.setSegs r l).segL = l := rfl
@[simp] theorem State.setSegs_rgb (r l : Byte) : (s.setSegs r l).rgb = s.rgb := rfl
@[simp] theorem State.setSegs_mono (r l : Byte) : (s.setSegs r l).mono = s.mono := rfl
@[simp] theorem State.setSegs_dirtyBg (r l : Byte) : (s.setSegs r l).dirtyBg = s.dirtyBg := rfl
@[simp] theorem State.setSegs_dirtyDisp (r l : Byte) : (s.setSegs r l).dirtyDisp = s.dirtyDisp := rfl
@[simp] theorem State.setSegs_rdata (r l : Byte) : (s.setSegs r l).rdata = s.rdata := rfl
@[simp] theorem State.setSegs_initialised (r l : Byte) : (s.setSegs r l).initialised = s.initialised := rfl
@[simp] theorem State.setSegs_refusedMark (r l : Byte) : (s.setSegs r l).refusedMark = s.refusedMark := rfl
@[simp] theorem State.setSegs_pending (r l : Byte) : (s.setSegs r l).pending = s.pending := rfl

/-! ### setRgb -/

@[simp] theorem State.setRgb_segR (m : Memory) : (s.setRgb m).segR = s.segR := rfl
@[simp] theorem State.setRgb_segL (m : Memory) : (s.setRgb m).segL = s.segL := rfl
@[simp] theorem State.setRgb_rgb (m : Memory) : (s.setRgb m).rgb = m := rfl
@[simp] theorem State.setRgb_mono (m : Memory) : (s.setRgb m).mono = s.mono := rfl
@[simp] theorem State.setRgb_dirtyBg (m : Memory) : (s.setRgb m).dirtyBg = s.dirtyBg := rfl
@[simp] theorem State.setRgb_dirtyDisp (m : Memory) : (s.setRgb m).dirtyDisp = s.dirtyDisp := rfl
@[simp] theorem State.setRgb_rdata (m : Memory) : (s.setRgb m).rdata = s.rdata := rfl
@[simp] theorem State.setRgb_initialised (m : Memory) : (s.setRgb m).initialised = s.initialised := rfl
@[simp] theorem State.setRgb_refusedMark (m : Memory) : (s.setRgb m).refusedMark = s.refusedMark := rfl
@[simp] theorem State.setRgb_pending (m : Memory) : (s.setRgb m).pending = s.pending := rfl

/-! ### setMono -/

@[simp] theorem State.setMono_segR (m : Memory) : (s.setMono m).segR = s.segR := rfl
@[simp] theorem State.setMono_segL (m : Memory) : (s.setMono m).segL = s.segL := rfl
@[simp] theorem State.setMono_rgb (m : Memory) : (s.setMono m).rgb = s.rgb := rfl
@[simp] theorem State.setMono_mono (m : Memory) : (s.setMono m).mono = m := rfl
@[simp] theorem State.setMono_dirtyBg (m : Memory) : (s.setMono m).dirtyBg = s.dirtyBg := rfl
@[simp] theorem State.setMono_dirtyDisp (m : Memory) : (s.setMono m).dirtyDisp = s.dirtyDisp := rfl
@[simp] theorem State.setMono_rdata (m : Memory) : (s.setMono m).rdata = s.rdata := rfl
@[simp] theorem State.setMono_initialised (m : Memory) : (s.setMono m).initialised = s.initialised := rfl
@[simp] theorem State.setMono_refusedMark (m : Memory) : (s.setMono m).refusedMark = s.refusedMark := rfl
@[simp] theorem State.setMono_pending (m : Memory) : (s.setMono m).pending = s.pending := rfl

/-! ### clearBuffers -/

@[simp] theorem State.clearBuffers_segR : (s.clearBuffers).segR = s.segR := rfl
@[simp] theorem State.clearBuffers_segL : (s.clearBuffers).segL = s.segL := rfl
@[simp] theorem State.clearBuffers_rgb : (s.clearBuffers).rgb = Memory.zeroed := rfl
@[simp] theorem State.clearBuffers_mono : (s.clearBuffers).mono = Memory.zeroed := rfl
@[simp] theorem State.clearBuffers_dirtyBg : (s.clearBuffers).dirtyBg = s.dirtyBg := rfl
@[simp] theorem State.clearBuffers_dirtyDisp : (s.clearBuffers).dirtyDisp = s.dirtyDisp := rfl
@[simp] theorem State.clearBuffers_rdata : (s.clearBuffers).rdata = s.rdata := rfl
@[simp] theorem State.clearBuffers_initialised : (s.clearBuffers).initialised = s.initialised := rfl
@[simp] theorem State.clearBuffers_refusedMark : (s.clearBuffers).refusedMark = s.refusedMark := rfl
@[simp] theorem State.clearBuffers_pending : (s.clearBuffers).pending = s.pending := rfl

/-! ### boot -/

@[simp] theorem State.boot_segR : (s.boot).segR = s.segR := rfl
@[simp] theorem State.boot_segL : (s.boot).segL = s.segL := rfl
@[simp] theorem State.boot_rgb : (s.boot).rgb = s.rgb := rfl
@[simp] theorem State.boot_mono : (s.boot).mono = s.mono := rfl
@[simp] theorem State.boot_dirtyBg : (s.boot).dirtyBg = s.dirtyBg := rfl
@[simp] theorem State.boot_dirtyDisp : (s.boot).dirtyDisp = s.dirtyDisp := rfl
@[simp] theorem State.boot_rdata : (s.boot).rdata = s.rdata := rfl
@[simp] theorem State.boot_initialised : (s.boot).initialised = true := rfl
@[simp] theorem State.boot_refusedMark : (s.boot).refusedMark = s.refusedMark := rfl
@[simp] theorem State.boot_pending : (s.boot).pending = s.pending := rfl

/-! ### markDisplay -/

@[simp] theorem State.markDisplay_segR : (s.markDisplay).segR = s.segR := rfl
@[simp] theorem State.markDisplay_segL : (s.markDisplay).segL = s.segL := rfl
@[simp] theorem State.markDisplay_rgb : (s.markDisplay).rgb = s.rgb := rfl
@[simp] theorem State.markDisplay_mono : (s.markDisplay).mono = s.mono := rfl
@[simp] theorem State.markDisplay_dirtyBg : (s.markDisplay).dirtyBg = s.dirtyBg := rfl
@[simp] theorem State.markDisplay_dirtyDisp : (s.markDisplay).dirtyDisp = true := rfl
@[simp] theorem State.markDisplay_rdata : (s.markDisplay).rdata = s.rdata := rfl
@[simp] theorem State.markDisplay_initialised : (s.markDisplay).initialised = s.initialised := rfl
@[simp] theorem State.markDisplay_refusedMark : (s.markDisplay).refusedMark = s.refusedMark := rfl
@[simp] theorem State.markDisplay_pending : (s.markDisplay).pending = s.pending := rfl

/-! ### markAll -/

@[simp] theorem State.markAll_segR : (s.markAll).segR = s.segR := rfl
@[simp] theorem State.markAll_segL : (s.markAll).segL = s.segL := rfl
@[simp] theorem State.markAll_rgb : (s.markAll).rgb = s.rgb := rfl
@[simp] theorem State.markAll_mono : (s.markAll).mono = s.mono := rfl
@[simp] theorem State.markAll_dirtyBg : (s.markAll).dirtyBg = true := rfl
@[simp] theorem State.markAll_dirtyDisp : (s.markAll).dirtyDisp = true := rfl
@[simp] theorem State.markAll_rdata : (s.markAll).rdata = s.rdata := rfl
@[simp] theorem State.markAll_initialised : (s.markAll).initialised = s.initialised := rfl
@[simp] theorem State.markAll_refusedMark : (s.markAll).refusedMark = s.refusedMark := rfl
@[simp] theorem State.markAll_pending : (s.markAll).pending = s.pending := rfl

/-! ### clearFlags -/

@[simp] theorem State.clearFlags_segR : (s.clearFlags).segR = s.segR := rfl
@[simp] theorem State.clearFlags_segL : (s.clearFlags).segL = s.segL := rfl
@[simp] theorem State.clearFlags_rgb : (s.clearFlags).rgb = s.rgb := rfl
@[simp] theorem State.clearFlags_mono : (s.clearFlags).mono = s.mono := rfl
@[simp] theorem State.clearFlags_dirtyBg : (s.clearFlags).dirtyBg = false := rfl
@[simp] theorem State.clearFlags_dirtyDisp : (s.clearFlags).dirtyDisp = false := rfl
@[simp] theorem State.clearFlags_rdata : (s.clearFlags).rdata = s.rdata := rfl
@[simp] theorem State.clearFlags_initialised : (s.clearFlags).initialised = s.initialised := rfl
@[simp] theorem State.clearFlags_refusedMark : (s.clearFlags).refusedMark = s.refusedMark := rfl
@[simp] theorem State.clearFlags_pending : (s.clearFlags).pending = s.pending := rfl

/-! ### afterRefusal -/

@[simp] theorem State.afterRefusal_segR (r : Refusal) : (s.afterRefusal r).segR = s.segR := rfl
@[simp] theorem State.afterRefusal_segL (r : Refusal) : (s.afterRefusal r).segL = s.segL := rfl
@[simp] theorem State.afterRefusal_rgb (r : Refusal) : (s.afterRefusal r).rgb = s.rgb := rfl
@[simp] theorem State.afterRefusal_mono (r : Refusal) : (s.afterRefusal r).mono = s.mono := rfl
@[simp] theorem State.afterRefusal_dirtyBg (r : Refusal) : (s.afterRefusal r).dirtyBg = s.dirtyBg := rfl
@[simp] theorem State.afterRefusal_dirtyDisp (r : Refusal) : (s.afterRefusal r).dirtyDisp = s.dirtyDisp := rfl
@[simp] theorem State.afterRefusal_rdata (r : Refusal) : (s.afterRefusal r).rdata = 0#64 := rfl
@[simp] theorem State.afterRefusal_initialised (r : Refusal) : (s.afterRefusal r).initialised = s.initialised := rfl
@[simp] theorem State.afterRefusal_refusedMark (r : Refusal) : (s.afterRefusal r).refusedMark = some r := rfl
@[simp] theorem State.afterRefusal_pending (r : Refusal) : (s.afterRefusal r).pending = s.pending := rfl

/-! ### withFetchWord -/

@[simp] theorem State.withFetchWord_segR (nbits w : Nat) : (s.withFetchWord nbits w).segR = s.segR := rfl
@[simp] theorem State.withFetchWord_segL (nbits w : Nat) : (s.withFetchWord nbits w).segL = s.segL := rfl
@[simp] theorem State.withFetchWord_rgb (nbits w : Nat) : (s.withFetchWord nbits w).rgb = s.rgb := rfl
@[simp] theorem State.withFetchWord_mono (nbits w : Nat) : (s.withFetchWord nbits w).mono = s.mono := rfl
@[simp] theorem State.withFetchWord_dirtyBg (nbits w : Nat) : (s.withFetchWord nbits w).dirtyBg = s.dirtyBg := rfl
@[simp] theorem State.withFetchWord_dirtyDisp (nbits w : Nat) : (s.withFetchWord nbits w).dirtyDisp = s.dirtyDisp := rfl
@[simp] theorem State.withFetchWord_rdata (nbits w : Nat) : (s.withFetchWord nbits w).rdata = s.rdata := rfl
@[simp] theorem State.withFetchWord_initialised (nbits w : Nat) : (s.withFetchWord nbits w).initialised = s.initialised := rfl
@[simp] theorem State.withFetchWord_refusedMark (nbits w : Nat) : (s.withFetchWord nbits w).refusedMark = s.refusedMark := rfl
@[simp] theorem State.withFetchWord_pending (nbits w : Nat) : (s.withFetchWord nbits w).pending = PortEvent.command (commandOfTableWord nbits w) :: s.pending := rfl

/-! ### The reset state (R35) -/

@[simp] theorem State.reset_segR : State.reset.segR = 0#8 := rfl
@[simp] theorem State.reset_segL : State.reset.segL = 0#8 := rfl
@[simp] theorem State.reset_rgb : State.reset.rgb = [] := rfl
@[simp] theorem State.reset_mono : State.reset.mono = [] := rfl
@[simp] theorem State.reset_dirtyBg : State.reset.dirtyBg = true := rfl
@[simp] theorem State.reset_dirtyDisp : State.reset.dirtyDisp = true := rfl
@[simp] theorem State.reset_rdata : State.reset.rdata = 0#64 := rfl
@[simp] theorem State.reset_initialised : State.reset.initialised = true := rfl
@[simp] theorem State.reset_refusedMark : State.reset.refusedMark = none := rfl
@[simp] theorem State.reset_pending : State.reset.pending = [] := rfl

/-! ### The power-on state (R34) -/

@[simp] theorem State.powerOn_initialised (es : List PortEvent) : (State.powerOn es).initialised = false := rfl
@[simp] theorem State.powerOn_refusedMark (es : List PortEvent) : (State.powerOn es).refusedMark = none := rfl
@[simp] theorem State.powerOn_pending (es : List PortEvent) : (State.powerOn es).pending = es := rfl

@[simp] theorem State.powerOn_rgb (es : List PortEvent) :
    (State.powerOn es).rgb = Memory.ofBytes Config.powerOnRgbByte Config.rgbAlloc := rfl
@[simp] theorem State.powerOn_mono (es : List PortEvent) :
    (State.powerOn es).mono = Memory.ofBytes Config.powerOnMonoByte Config.monoAlloc := rfl

/-! ### A write to the segment registers (R131, R132) -/

@[simp] theorem State.storeSegR_rgb (size : Size) (v : Data) : (s.storeSegR size v).rgb = s.rgb := by cases size <;> rfl
@[simp] theorem State.storeSegR_mono (size : Size) (v : Data) : (s.storeSegR size v).mono = s.mono := by cases size <;> rfl
@[simp] theorem State.storeSegR_dirtyBg (size : Size) (v : Data) : (s.storeSegR size v).dirtyBg = s.dirtyBg := by cases size <;> rfl
@[simp] theorem State.storeSegR_dirtyDisp (size : Size) (v : Data) : (s.storeSegR size v).dirtyDisp = s.dirtyDisp := by cases size <;> rfl
@[simp] theorem State.storeSegR_rdata (size : Size) (v : Data) : (s.storeSegR size v).rdata = s.rdata := by cases size <;> rfl
@[simp] theorem State.storeSegR_initialised (size : Size) (v : Data) : (s.storeSegR size v).initialised = s.initialised := by cases size <;> rfl
@[simp] theorem State.storeSegR_refusedMark (size : Size) (v : Data) : (s.storeSegR size v).refusedMark = s.refusedMark := by cases size <;> rfl
@[simp] theorem State.storeSegR_pending (size : Size) (v : Data) : (s.storeSegR size v).pending = s.pending := by cases size <;> rfl
@[simp] theorem State.storeSegL_rgb (size : Size) (v : Data) : (s.storeSegL size v).rgb = s.rgb := by cases size <;> rfl
@[simp] theorem State.storeSegL_mono (size : Size) (v : Data) : (s.storeSegL size v).mono = s.mono := by cases size <;> rfl
@[simp] theorem State.storeSegL_dirtyBg (size : Size) (v : Data) : (s.storeSegL size v).dirtyBg = s.dirtyBg := by cases size <;> rfl
@[simp] theorem State.storeSegL_dirtyDisp (size : Size) (v : Data) : (s.storeSegL size v).dirtyDisp = s.dirtyDisp := by cases size <;> rfl
@[simp] theorem State.storeSegL_rdata (size : Size) (v : Data) : (s.storeSegL size v).rdata = s.rdata := by cases size <;> rfl
@[simp] theorem State.storeSegL_initialised (size : Size) (v : Data) : (s.storeSegL size v).initialised = s.initialised := by cases size <;> rfl
@[simp] theorem State.storeSegL_refusedMark (size : Size) (v : Data) : (s.storeSegL size v).refusedMark = s.refusedMark := by cases size <;> rfl
@[simp] theorem State.storeSegL_pending (size : Size) (v : Data) : (s.storeSegL size v).pending = s.pending := by cases size <;> rfl
@[simp] theorem State.storeSegR_segR (size : Size) (v : Data) : (s.storeSegR size v).segR = byteOf v 0 := by
  cases size <;> rfl
@[simp] theorem State.storeSegL_segR (size : Size) (v : Data) : (s.storeSegL size v).segR = s.segR := by
  cases size <;> rfl
@[simp] theorem State.storeSegL_segL (size : Size) (v : Data) : (s.storeSegL size v).segL = byteOf v 0 := by
  cases size <;> rfl

/-- SEG_L follows only at the widths above one byte (R131). -/
theorem State.storeSegR_segL (size : Size) (v : Data) :
    (s.storeSegR size v).segL = if size = .b then s.segL else byteOf v 1 := by
  cases size <;> rfl

end Sys2Proof.Machine
end

