-- ==== Sys2Proof/Laws/Ops.lean ====
section
/-! SUPPORT. What one command and one step can do, said once: later proofs cite these and unfold neither exec nor
step. -/

namespace Sys2Proof.Machine

/-! ### The check before a command -/

@[simp] theorem whenInitialised_of_true {s t : State} (h : s.initialised = true) :
    whenInitialised s t = .next t := by
  rw [whenInitialised, if_pos h]

@[simp] theorem whenInitialised_of_false {s t : State} (h : s.initialised = false) :
    whenInitialised s t = .refused .uninitialised := by
  rw [whenInitialised, if_neg (by simp [h])]

/-- If a checked command answers a next state, the block is initialised and the state is the command's. -/
theorem whenInitialised_next {s t u : State} (h : whenInitialised s t = .next u) :
    s.initialised = true ∧ u = t := by
  unfold whenInitialised at h
  split at h
  · rename_i hi
    exact ⟨hi, by cases h; rfl⟩
  · cases h

/-! ### The effect of a command -/

/-- What a command leaves when it is performed, each as its rule says. -/
def effect (i : Instr) (s : State) : State :=
  match i with
  | .nop => s.respond 0#64
  | .readSegR size => s.respond (segRValue size s)
  | .readSegL size => s.respond (segLValue size s)
  | .readRgb size off => s.respond (regionRead s.rgb off.toNat size.bytes)
  | .readMono size off => s.respond (regionRead s.mono off.toNat size.bytes)
  | .readUnmapped _ _ => s.respond 0#64
  | .writeSegR size v => ((s.storeSegR size v).markDisplay).respond 0#64
  | .writeSegL size v => ((s.storeSegL size v).markDisplay).respond 0#64
  | .writeRgb size off v => ((s.setRgb (regionWrite s.rgb off.toNat v size.bytes)).markDisplay).respond 0#64
  | .writeMono size off v => ((s.setMono (regionWrite s.mono off.toNat v size.bytes)).markDisplay).respond 0#64
  | .writeUnmapped _ _ _ => s.markDisplay.respond 0#64
  | .reset => ((((s.setSegs 0#8 0#8).clearBuffers).markAll).boot).respond 0#64
  | .invalidate => s.markAll.respond 0#64
  | .frameDone => s.clearFlags.respond 0#64
  | .save => s.respond s.savedImage
  | .restore image => s.restored image

/-- An accepted restore image; every other command has none to check (R155). -/
def imageAccepted (i : Instr) : Bool :=
  match i with
  | .nop => true
  | .readSegR _ => true
  | .readSegL _ => true
  | .readRgb _ _ => true
  | .readMono _ _ => true
  | .readUnmapped _ _ => true
  | .writeSegR _ _ => true
  | .writeSegL _ _ => true
  | .writeRgb _ _ _ => true
  | .writeMono _ _ _ => true
  | .writeUnmapped _ _ _ => true
  | .reset => true
  | .invalidate => true
  | .frameDone => true
  | .save => true
  | .restore image => imageInRange image

/-- An initialised block performs every command whose image it accepts. -/
theorem exec_of_initialised {i : Instr} {s : State} (h : s.initialised = true) (ha : imageAccepted i = true) :
    exec i s = .next (effect i s) := by
  cases i with
  | reset => rfl
  | restore image =>
    change imageInRange image = true at ha
    simp [exec, execRestore, ha, whenInitialised_of_true h, effect]
  | nop | readSegR | readSegL | readRgb | readMono | readUnmapped | writeSegR | writeSegL | writeRgb
    | writeMono | writeUnmapped | invalidate | frameDone | save => exact whenInitialised_of_true h

/-- RESET is performed in every state (R151). -/
theorem exec_reset (s : State) : exec .reset s = .next (effect .reset s) := rfl

/-- Everything exec can answer. -/
theorem exec_cases (i : Instr) (s : State) :
    (exec i s = .next (effect i s) ∧ (i = .reset ∨ s.initialised = true) ∧ imageAccepted i = true)
      ∨ (exec i s = .refused .uninitialised ∧ i ≠ .reset ∧ s.initialised = false)
      ∨ (exec i s = .refused .restoreRange ∧ s.initialised = true ∧ imageAccepted i = false
          ∧ ∃ image, i = .restore image ∧ imageInRange image = false) := by
  by_cases hr : i = .reset
  · subst hr; exact .inl ⟨rfl, .inl rfl, rfl⟩
  by_cases hs : s.initialised = true
  · by_cases ha : imageAccepted i = true
    · exact .inl ⟨exec_of_initialised hs ha, .inr hs, ha⟩
    · refine .inr (.inr ?_)
      cases i with
      | restore image =>
        have hi : imageInRange image = false := by simpa [imageAccepted] using ha
        exact ⟨by simp [exec, execRestore, hi, hs], hs, hi, image, rfl, hi⟩
      | _ => exact absurd rfl ha
  · refine .inr (.inl ⟨?_, hr, by simpa using hs⟩)
    have hs' : s.initialised = false := by simpa using hs
    cases i with
    | reset => exact absurd rfl hr
    | restore image =>
      by_cases hi : imageInRange image = true
      · simp [exec, execRestore, hi, whenInitialised_of_false hs']
      · simp [exec, execRestore, hi, hs']
    | nop | readSegR | readSegL | readRgb | readMono | readUnmapped | writeSegR | writeSegL | writeRgb
      | writeMono | writeUnmapped | invalidate | frameDone | save => exact whenInitialised_of_false hs'

/-- If a command answers a next state, it is the command's effect, on an initialised block or by RESET. -/
theorem exec_next {i : Instr} {s t : State} (h : exec i s = .next t) :
    t = effect i s ∧ (i = .reset ∨ s.initialised = true) ∧ imageAccepted i = true := by
  rcases exec_cases i s with ⟨he, hi, ha⟩ | ⟨he, _⟩ | ⟨he, _⟩
  · rw [he] at h; cases h; exact ⟨rfl, hi, ha⟩
  · rw [he] at h; cases h
  · rw [he] at h; cases h

/-! ### A stream of commands (R64) -/

@[simp] theorem execAll_nil (s : State) : execAll [] s = .next s := rfl

theorem execAll_cons_of_next {i : Instr} {s t : State} (rest : List Instr) (h : exec i s = .next t) :
    execAll (i :: rest) s = execAll rest t := by
  simp [execAll, h]

/-! ### One step -/

theorem step_of_mark {s : State} {r : Refusal} (h : s.refusedMark = some r) : step s = .refused r := by
  simp [step, h]

theorem step_of_event {s : State} {e : PortEvent} {rest : List PortEvent} (hm : s.refusedMark = none)
    (hp : s.pending = e :: rest) : step s = accept e (s.takeEvent rest) := by
  simp [step, hm, hp]

theorem step_of_idle {s : State} (hm : s.refusedMark = none) (hp : s.pending = []) :
    step s = exec .nop s := by
  simp [step, hm, hp, idle]

/-- If a step answers a next state, some command was performed: the one presented, or NOP with nothing
presented. -/
theorem step_next {s t : State} (h : step s = .next t) :
    s.refusedMark = none ∧ ∃ i u, exec i u = .next t ∧
      ((s.pending = [] ∧ i = .nop ∧ u = s)
        ∨ ∃ c rest, s.pending = .command c :: rest ∧ decode c = .ok i ∧ u = s.takeEvent rest) := by
  cases hm : s.refusedMark with
  | some r => rw [step_of_mark hm] at h; cases h
  | none =>
    refine ⟨rfl, ?_⟩
    cases hp : s.pending with
    | nil => exact ⟨.nop, s, by rwa [step_of_idle hm hp] at h, .inl ⟨rfl, rfl, rfl⟩⟩
    | cons e rest =>
      rw [step_of_event hm hp] at h
      cases e with
      | fetch a => cases h
      | commands a b more => cases h
      | command c =>
        cases hd : decode c with
        | error err => simp [accept, hd] at h
        | ok i =>
          simp only [accept, hd] at h
          exact ⟨i, s.takeEvent rest, h, .inr ⟨c, rest, rfl, hd, rfl⟩⟩

@[simp] theorem settle_next (s t : State) : s.settle (.next t) = t := rfl

@[simp] theorem settle_refused (s : State) (r : Refusal) : s.settle (.refused r) = s.afterRefusal r := rfl

end Sys2Proof.Machine
end

