-- ==== Sys2Proof/Laws/Display.lean ====
section
/-! SUPPORT. What the display port shows after a command, and what the flags ask a pass to draw (43_display_port.md). -/

namespace Sys2Proof.Machine

@[simp] theorem displayPort_of_initialised {s : State} (h : s.initialised = true) :
    displayPort s = some (exported s) := by
  rw [displayPort, if_pos h]

@[simp] theorem drawList_exported (s : State) :
    drawList (exported s) = (if s.dirtyBg then [.background] else [])
      ++ (if s.dirtyDisp then [.leftDigit, .rightDigit, .rgbWidget, .monoWidget] else []) := rfl

/-- The port's words are the buffers' words (R172, R173). -/
theorem exported_pix (s : State) (i : Nat) (h : i < 1024) : (exported s).pix[i] = s.rgbWord i := by
  simp [exported]

theorem exported_row (s : State) (r : Nat) (h : r < 32) : (exported s).row[r] = s.monoWord r := by
  simp [exported]

/-- Every command leaves an initialised block initialised (R36). -/
theorem effect_initialised {i : Instr} {s : State} (h : s.initialised = true) : (effect i s).initialised = true := by
  cases i <;> simp [effect, State.restored, h]

/-- A performed WRITE, RESET, INVALIDATE or RESTORE leaves DIRTY_DISP set (R32). -/
theorem effect_dirtyDisp_of_asksRedraw {i : Instr} (s : State) (h : asksRedraw i = true) :
    (effect i s).dirtyDisp = true := by
  cases i <;> simp_all [asksRedraw, Instr.op, effect, State.restored]

/-- A command that asks for no redraw is performed on every initialised block; where the flags are clear it leaves
them clear, and the port shows what it showed (R32, R110, R150, R153, R154). -/
theorem exec_of_not_asksRedraw {i : Instr} {s : State} (hi : asksRedraw i = false) (hs : s.initialised = true)
    (hb : s.dirtyBg = false) (hd : s.dirtyDisp = false) :
    exec i s = .next (effect i s) ∧ exported (effect i s) = exported s := by
  have ha : imageAccepted i = true := by cases i <;> simp_all [asksRedraw, Instr.op, imageAccepted]
  refine ⟨exec_of_initialised hs ha, ?_⟩
  cases i <;> simp_all [asksRedraw, Instr.op, effect, exported, State.rgbWord, State.monoWord]

end Sys2Proof.Machine
end

