-- ==== Sys2Proof/Laws/PerInstr.lean ====
section
/-! SUPPORT. The encoding of each command stands in its own row of opcode_table.json (30_encoding.md R89). -/

namespace Sys2Proof.Laws.EncodedRow

/-- The encoded word has the row's match value under the row's mask. -/
def Statement (i : Instr) : Prop := (encode i).cmd &&& i.rowMask = i.rowMatch

/-- A row that masks the whole word (rows 2 and 13 to 17). -/
theorem whole {i : Instr} (op : BitVec 3) (hop : i.op = op) (hs : i.sizeCode = 0#2) (ha : i.startAddr = 0#16)
    (hm : i.rowMask = 0xFFFFFF#24) (hw : pack op 0#3 0#2 0#16 = i.rowMatch) : Statement i := by
  rw [Statement, hm, word_mask_iff, ← hw, encode, hop, hs, ha]

/-- A row that fixes OP and ADDR (rows 3, 4, 8 and 9). -/
theorem byAddr {i : Instr} (op : BitVec 3) (a : Offset) (hop : i.op = op) (ha : i.startAddr = a)
    (hm : i.rowMask = 0xFCFFFF#24) (hw : pack op 0#3 0#2 a = i.rowMatch) : Statement i := by
  rw [Statement, hm, ← hw, addr_mask_iff]
  simp [encode, hop, ha]

/-- A row that fixes OP alone (rows 7 and 12). -/
theorem byOp {i : Instr} (op : BitVec 3) (hop : i.op = op) (hm : i.rowMask = 0xFC0000#24)
    (hw : pack op 0#3 0#2 0#16 = i.rowMatch) : Statement i := by
  rw [Statement, hm, ← hw, op_mask_iff]
  simp [encode, hop]

theorem rgbAddr_mask (off : BitVec 12) : rgbAddr off &&& 0xF000#16 = 0x4000#16 := by
  rw [show (0xF000#16) = (0xF#4 ++ 0#12 : BitVec 16) from rfl, rgbAddr, BitVec.and_append]
  simp

theorem monoAddr_mask (off : BitVec 7) : monoAddr off &&& 0xFF80#16 = 0x8000#16 := by
  rw [show (0xFF80#16) = (0x1FF#9 ++ 0#7 : BitVec 16) from rfl, monoAddr, BitVec.and_append]
  simp

/-- A row of the RGB region (rows 5 and 10). -/
theorem byRgb {i : Instr} (op : BitVec 3) (off : BitVec 12) (hop : i.op = op) (ha : i.startAddr = rgbAddr off)
    (hm : i.rowMask = 0xFCF000#24) (hw : pack op 0#3 0#2 0x4000#16 = i.rowMatch) : Statement i := by
  rw [Statement, hm, ← hw, rgb_mask_iff]
  simp [encode, hop, ha, rgbAddr_mask]

/-- A row of the monochrome region (rows 6 and 11). -/
theorem byMono {i : Instr} (op : BitVec 3) (off : BitVec 7) (hop : i.op = op) (ha : i.startAddr = monoAddr off)
    (hm : i.rowMask = 0xFCFF80#24) (hw : pack op 0#3 0#2 0x8000#16 = i.rowMatch) : Statement i := by
  rw [Statement, hm, ← hw, mono_mask_iff]
  simp [encode, hop, ha, monoAddr_mask]

theorem nop : Statement .nop := whole 0#3 rfl rfl rfl rfl (by decide)
theorem readSegR (size : Size) : Statement (.readSegR size) :=
  byAddr 1#3 0x0010#16 rfl rfl rfl (show pack 1#3 0#3 0#2 0x0010#16 = 0x200010#24 by decide)
theorem readSegL (size : Size) : Statement (.readSegL size) :=
  byAddr 1#3 0x0011#16 rfl rfl rfl (show pack 1#3 0#3 0#2 0x0011#16 = 0x200011#24 by decide)
theorem readRgb (size : Size) (off : BitVec 12) : Statement (.readRgb size off) :=
  byRgb 1#3 off rfl rfl rfl (show pack 1#3 0#3 0#2 0x4000#16 = 0x204000#24 by decide)
theorem readMono (size : Size) (off : BitVec 7) : Statement (.readMono size off) :=
  byMono 1#3 off rfl rfl rfl (show pack 1#3 0#3 0#2 0x8000#16 = 0x208000#24 by decide)
theorem readUnmapped (size : Size) (addr : Offset) : Statement (.readUnmapped size addr) :=
  byOp 1#3 rfl rfl (show pack 1#3 0#3 0#2 0#16 = 0x200000#24 by decide)
theorem writeSegR (size : Size) (v : Data) : Statement (.writeSegR size v) :=
  byAddr 2#3 0x0010#16 rfl rfl rfl (show pack 2#3 0#3 0#2 0x0010#16 = 0x400010#24 by decide)
theorem writeSegL (size : Size) (v : Data) : Statement (.writeSegL size v) :=
  byAddr 2#3 0x0011#16 rfl rfl rfl (show pack 2#3 0#3 0#2 0x0011#16 = 0x400011#24 by decide)
theorem writeRgb (size : Size) (off : BitVec 12) (v : Data) : Statement (.writeRgb size off v) :=
  byRgb 2#3 off rfl rfl rfl (show pack 2#3 0#3 0#2 0x4000#16 = 0x404000#24 by decide)
theorem writeMono (size : Size) (off : BitVec 7) (v : Data) : Statement (.writeMono size off v) :=
  byMono 2#3 off rfl rfl rfl (show pack 2#3 0#3 0#2 0x8000#16 = 0x408000#24 by decide)
theorem writeUnmapped (size : Size) (addr : Offset) (v : Data) : Statement (.writeUnmapped size addr v) :=
  byOp 2#3 rfl rfl (show pack 2#3 0#3 0#2 0#16 = 0x400000#24 by decide)
theorem reset : Statement .reset := whole 3#3 rfl rfl rfl rfl (by decide)
theorem invalidate : Statement .invalidate := whole 4#3 rfl rfl rfl rfl (by decide)
theorem frameDone : Statement .frameDone := whole 5#3 rfl rfl rfl rfl (by decide)
theorem save : Statement .save := whole 6#3 rfl rfl rfl rfl (by decide)
theorem restore (image : Data) : Statement (.restore image) :=
  whole 7#3 rfl rfl rfl rfl (show pack 7#3 0#3 0#2 0#16 = 0xE00000#24 by decide)

end Sys2Proof.Laws.EncodedRow
end

