-- ==== Sys2Proof/Tests/Slice0.lean ====
section
/-! SUPPORT. Tests: expected values are those of 95_test_vectors.md (the vector is named) or worked out by hand from
the rule named; then, for every statement with hypotheses, a concrete case that meets them. -/

namespace Sys2Proof.Tests

open Sys2Proof Sys2Proof.Machine

/-- The state a command leaves, and ResetState where it leaves none. -/
def after (o : Host.Outcome State Fault Refusal) : State :=
  match o with
  | .next t => t
  | .fault _ => State.reset
  | .refused _ => State.reset

/-- Why a command was refused. -/
def reason (o : Host.Outcome State Fault Refusal) : Option Refusal :=
  match o with
  | .next _ => none
  | .fault _ => none
  | .refused r => some r

/-- A running block with both flags clear: SEG_R = 0x12, SEG_L = 0x34 (vectors G2 to G9), RGB[0] = 0x00FF8040 and
RGB[1] = 0x0000AB00 (B5), RGB[1023] = 0x03020100, RGB[1024] = 0x07060504 (B11), MONO[31] = 0x55667788 and
MONO[32] = 0x11223344 (M2). -/
def sample : State :=
  { State.reset with
    segR := 0x12#8
    segL := 0x34#8
    dirtyBg := false
    dirtyDisp := false
    rgb := [(0, 0x40#8), (1, 0x80#8), (2, 0xFF#8), (5, 0xAB#8), (4093, 1#8), (4094, 2#8), (4095, 3#8),
      (4096, 4#8), (4097, 5#8), (4098, 6#8), (4099, 7#8), (4100, 8#8)]
    mono := [(124, 0x88#8), (125, 0x77#8), (126, 0x66#8), (127, 0x55#8), (128, 0x44#8), (129, 0x33#8),
      (130, 0x22#8), (131, 0x11#8)] }

/-- The sample with the events at its port. -/
def withEvents (es : List PortEvent) : State := { sample with pending := es }

/-! ### WellFormed refuses an ill-formed term for each check -/

theorem test_wellFormed_readUnmapped_segR : (Instr.readUnmapped .b 0x0010#16).wellFormed = false := by decide
theorem test_wellFormed_readUnmapped_segL : (Instr.readUnmapped .b 0x0011#16).wellFormed = false := by decide
theorem test_wellFormed_readUnmapped_rgb : (Instr.readUnmapped .d 0x4FFF#16).wellFormed = false := by decide
theorem test_wellFormed_readUnmapped_mono : (Instr.readUnmapped .d 0x8000#16).wellFormed = false := by decide
theorem test_wellFormed_writeUnmapped_segL : (Instr.writeUnmapped .h 0x0011#16 1#64).wellFormed = false := by decide
theorem test_wellFormed_writeUnmapped_rgb : (Instr.writeUnmapped .w 0x4000#16 0#64).wellFormed = false := by decide
theorem test_wellFormed_writeUnmapped_mono : (Instr.writeUnmapped .w 0x807F#16 0#64).wellFormed = false := by decide

/-! ### Every constructor from a word written out by the fields OP RSV SIZE ADDR of R81 -/

theorem test_decode_nop : decode ⟨0b000_000_00_0000000000000000#24, 0#64⟩ = .ok .nop := by decide
theorem test_decode_readSegR : decode ⟨0b001_000_01_0000000000010000#24, 0#64⟩ = .ok (.readSegR .h) := by decide
theorem test_decode_readSegL : decode ⟨0b001_000_10_0000000000010001#24, 0#64⟩ = .ok (.readSegL .w) := by decide
theorem test_decode_readRgb : decode ⟨0b001_000_00_0100000000000010#24, 0#64⟩ = .ok (.readRgb .b 2#12) := by decide
theorem test_decode_readMono :
    decode ⟨0b001_000_11_1000000001111100#24, 0#64⟩ = .ok (.readMono .d 0x7C#7) := by decide
theorem test_decode_readUnmapped :
    decode ⟨0b001_000_10_0101000000000000#24, 0#64⟩ = .ok (.readUnmapped .w 0x5000#16) := by decide
theorem test_decode_writeSegR :
    decode ⟨0b010_000_01_0000000000010000#24, 0x3412#64⟩ = .ok (.writeSegR .h 0x3412#64) := by decide
theorem test_decode_writeSegL :
    decode ⟨0b010_000_10_0000000000010001#24, 0xDEADBEEF#64⟩ = .ok (.writeSegL .w 0xDEADBEEF#64) := by decide
theorem test_decode_writeRgb :
    decode ⟨0b010_000_11_0100111111111101#24, 0x0807060504030201#64⟩
      = .ok (.writeRgb .d 0xFFD#12 0x0807060504030201#64) := by decide
theorem test_decode_writeMono :
    decode ⟨0b010_000_01_1000000001111111#24, 0xBEEF#64⟩ = .ok (.writeMono .h 0x7F#7 0xBEEF#64) := by decide
theorem test_decode_writeUnmapped :
    decode ⟨0b010_000_01_0000000000001111#24, 0xAAAA#64⟩ = .ok (.writeUnmapped .h 0x000F#16 0xAAAA#64) := by decide
theorem test_decode_reset : decode ⟨0b011_000_00_0000000000000000#24, 0#64⟩ = .ok .reset := by decide
theorem test_decode_invalidate : decode ⟨0b100_000_00_0000000000000000#24, 0#64⟩ = .ok .invalidate := by decide
theorem test_decode_frameDone : decode ⟨0b101_000_00_0000000000000000#24, 0#64⟩ = .ok .frameDone := by decide
theorem test_decode_save : decode ⟨0b110_000_00_0000000000000000#24, 0#64⟩ = .ok .save := by decide
theorem test_decode_restore :
    decode ⟨0b111_000_00_0000000000000000#24, 0xCD00AB#64⟩ = .ok (.restore 0xCD00AB#64) := by decide

/-- K15 to K19. -/
theorem test_decode_reserved :
    decode ⟨0x040000#24, 0#64⟩ = .error .rsvNotZero ∧ decode ⟨0x3C4000#24, 0#64⟩ = .error .rsvNotZero
      ∧ decode ⟨0x600001#24, 0#64⟩ = .error .operandNotZero
      ∧ decode ⟨0x610000#24, 0#64⟩ = .error .operandNotZero
      ∧ decode ⟨0xA00010#24, 0#64⟩ = .error .operandNotZero := by decide

/-- The table's first words, as the host numbers them. -/
theorem test_decodeTableWord :
    decodeTableWord 24 0x204000 = some (.readRgb .b 0#12) ∧ decodeTableWord 24 0xE00000 = some (.restore 0#64)
      ∧ decodeTableWord 24 0x600001 = none := by decide

/-- The edges of the map of R51. -/
theorem test_targets :
    targetOf 0x000F#16 = .unmapped ∧ targetOf 0x0010#16 = .segR ∧ targetOf 0x0011#16 = .segL
      ∧ targetOf 0x0012#16 = .unmapped ∧ targetOf 0x3FFF#16 = .unmapped ∧ targetOf 0x4000#16 = .rgb
      ∧ targetOf 0x4FFF#16 = .rgb ∧ targetOf 0x5000#16 = .unmapped ∧ targetOf 0x7FFF#16 = .unmapped
      ∧ targetOf 0x8000#16 = .mono ∧ targetOf 0x807F#16 = .mono ∧ targetOf 0x8080#16 = .unmapped
      ∧ targetOf 0xFFFF#16 = .unmapped := by decide

/-- R4 and R5: the parameters agree with the sizes R5 derives and with the addresses the decoder uses. -/
theorem test_parameters : Config.rgbBytes = 0x1000 ∧ Config.monoBytes = 0x80 ∧ Config.rgbAlloc = 4104
    ∧ Config.monoAlloc = 136 ∧ Config.regionSize = 2 ^ 16 ∧ Config.maxWidth - 1 ≤ Config.guardWords * Config.wordBytes
    ∧ targetOf (BitVec.ofNat 16 Config.segRAddr) = .segR ∧ targetOf (BitVec.ofNat 16 Config.segLAddr) = .segL
    ∧ rgbAddr 0#12 = BitVec.ofNat 16 Config.rgbBase
    ∧ rgbAddr 0xFFF#12 = BitVec.ofNat 16 (Config.rgbBase + Config.rgbBytes - 1)
    ∧ monoAddr 0#7 = BitVec.ofNat 16 Config.monoBase
    ∧ monoAddr 0x7F#7 = BitVec.ofNat 16 (Config.monoBase + Config.monoBytes - 1)
    ∧ Size.d.bytes = Config.maxWidth := by decide

/-! ### READ (vectors of 95_test_vectors.md) -/

/-- G2 and G5. -/
theorem test_readSegR : (after (exec (.readSegR .b) sample)).rdata = 0x12#64
    ∧ (after (exec (.readSegR .d) sample)).rdata = 0x3412#64 := by decide
/-- G7: SEG_R is not returned. -/
theorem test_readSegL : (after (exec (.readSegL .h) sample)).rdata = 0x34#64 := by decide
/-- B3, and B16: a guard byte in the upper byte. -/
theorem test_readRgb : (after (exec (.readRgb .h 1#12) sample)).rdata = 0xFF80#64
    ∧ (after (exec (.readRgb .h 0xFFF#12) sample)).rdata = 0x0403#64 := by decide
/-- B12: three words. -/
theorem test_readRgb_spill : (after (exec (.readRgb .d 0xFFD#12) sample)).rdata = 0x0807060504030201#64 := by decide
/-- M4. -/
theorem test_readMono : (after (exec (.readMono .d 0x7C#7) sample)).rdata = 0x1122334455667788#64 := by decide
/-- K21, over an old RDATA. -/
theorem test_readUnmapped :
    (after (exec (.readUnmapped .d 0xFFFF#16) { sample with rdata := 7#64 })).rdata = 0#64 := by decide

/-! ### WRITE -/

/-- G1 and G11. -/
theorem test_writeSegR : (after (exec (.writeSegR .h 0xABCD#64) sample)).segL = 0xAB#8
    ∧ (after (exec (.writeSegR .b 0x1FF#64) sample)).segR = 0xFF#8
    ∧ (after (exec (.writeSegR .b 0x1FF#64) sample)).segL = 0x34#8 := by decide
/-- G12. -/
theorem test_writeSegR_wide : (after (exec (.writeSegR .d 0x1122334455667788#64) sample)).segR = 0x88#8
    ∧ (after (exec (.writeSegR .d 0x1122334455667788#64) sample)).segL = 0x77#8 := by decide
/-- G10. -/
theorem test_writeSegL : (after (exec (.writeSegL .w 0xDEADBEEF#64) sample)).segL = 0xEF#8
    ∧ (after (exec (.writeSegL .w 0xDEADBEEF#64) sample)).segR = 0x12#8 := by decide
/-- B6. -/
theorem test_writeRgb : (after (exec (.writeRgb .w 2#12 0x11223344#64) sample)).rgbWord 0 = 0x33448040#32
    ∧ (after (exec (.writeRgb .w 2#12 0x11223344#64) sample)).rgbWord 1 = 0x00001122#32 := by decide
/-- B20: the widest spill leaves byte 4103. -/
theorem test_writeRgb_spill :
    (after (exec (.writeRgb .d 0xFFF#12 0xFFFFFFFFFFFFFFFF#64) State.reset)).rgbWord 1025 = 0x00FFFFFF#32
      ∧ (after (exec (.writeRgb .d 0xFFF#12 0xFFFFFFFFFFFFFFFF#64) State.reset)).rgbWord 1023 = 0xFF000000#32 := by
  decide
/-- M6. -/
theorem test_writeMono : (after (exec (.writeMono .h 0x7F#7 0xBEEF#64) sample)).monoWord 31 = 0xEF667788#32
    ∧ (after (exec (.writeMono .h 0x7F#7 0xBEEF#64) sample)).monoWord 32 = 0x112233BE#32 := by decide
/-- K6: the flag is set though nothing is stored. -/
theorem test_writeUnmapped : (after (exec (.writeUnmapped .b 0x2000#16 0x55#64) sample))
    = { sample with dirtyDisp := true, rdata := 0#64 } := by decide
/-- Writing zeros takes the entries out again: equal bytes are equal data. -/
theorem test_regionWrite_canonical :
    regionWrite sample.rgb 0xFFD 0#64 8 = [(0, 0x40#8), (1, 0x80#8), (2, 0xFF#8), (5, 0xAB#8)] := by
  decide

/-! ### Control -/

theorem test_nop : after (exec .nop sample) = { sample with rdata := 0#64 } := by decide
/-- K2, from a state with everything set. -/
theorem test_reset : after (exec .reset { sample with initialised := false }) = State.reset := by decide
/-- K7. -/
theorem test_invalidate : (after (exec .invalidate sample)).dirtyBg = true
    ∧ (after (exec .invalidate sample)).dirtyDisp = true := by decide
/-- K4. -/
theorem test_frameDone : after (exec .frameDone State.reset)
    = { State.reset with dirtyBg := false, dirtyDisp := false } := by decide
/-- K10. -/
theorem test_save :
    (after (exec .save { sample with segL := 0xAB#8, segR := 0xCD#8 })).rdata = 0x0000000000CD00AB#64 := by decide
/-- K13. -/
theorem test_restore : after (exec (.restore 0xCD00AB#64) sample)
    = { State.reset with segL := 0xAB#8, segR := 0xCD#8 } := by decide
/-- K14 and K20. -/
theorem test_restore_refused : reason (exec (.restore 0x01CD00AB#64) sample) = some .restoreRange
    ∧ reason (exec (.restore 0x100CD00AB#64) sample) = some .restoreRange
    ∧ reason (exec (.restore 0x00CD80AB#64) sample) = some .restoreRange := by decide

/-! ### The step -/

/-- K1: a NOP before any RESET. -/
theorem test_step_uninitialised : reason (step (State.powerOn [.command ⟨0#24, 0#64⟩])) = some .uninitialised := by
  rfl
/-- P1: WR.b 0x11, 0x86 is taken from the port and performed. -/
theorem test_step_command :
    after (step (withEvents [.command ⟨0x400011#24, 0x86#64⟩, .command ⟨0xA00000#24, 0#64⟩]))
      = { sample with segL := 0x86#8, dirtyDisp := true, pending := [.command ⟨0xA00000#24, 0#64⟩] } := by decide
/-- K18. -/
theorem test_step_reserved : reason (step (withEvents [.command ⟨0xA00010#24, 0#64⟩])) = some .reserved := by decide
/-- R68 and R193. -/
theorem test_step_outside : reason (step (withEvents [.fetch 0x4000#16])) = some .fetch
    ∧ reason (step (withEvents [.commands ⟨0#24, 0#64⟩ ⟨0#24, 0#64⟩ []])) = some .concurrent := by decide
/-- R192: the mark stops a RESET too. -/
theorem test_step_marked :
    reason (step { withEvents [.command ⟨0x600000#24, 0#64⟩] with refusedMark := some .reserved })
      = some .reserved := by decide
/-- The first step after reset runs the word placed: RD.d 0x4000 (R110's example). -/
theorem test_step_placedWord : after (step (State.reset.withFetchWord 24 0x234000)) = State.reset := by decide

/-! ### Display and assembler -/

/-- S6: 0x7F lights every stroke and not the LED; 0x80 the LED alone. -/
theorem test_strokes : strokeOn 0x7F#8 .top = true ∧ strokeOn 0x7F#8 .led = false ∧ strokeOn 0x80#8 .led = true
    ∧ strokeOn 0x80#8 .middle = false := by decide
/-- P1's "2", 0x5B: top, upper right, middle, lower left, bottom. -/
theorem test_strokes_two : [Stroke.top, .upperLeft, .lowerLeft, .bottom, .lowerRight, .upperRight, .middle, .led].map
    (strokeOn 0x5B#8) = [true, false, true, true, false, true, true, false] := by decide
/-- R174: what a pass draws right after RESET, and after a WRITE on a block with both flags clear. -/
theorem test_compositionPass :
    (compositionPass State.reset).1 = some [.background, .leftDigit, .rightDigit, .rgbWidget, .monoWidget]
      ∧ (compositionPass (after (exec (.writeSegL .b 1#64) sample))).1
          = some [.leftDigit, .rightDigit, .rgbWidget, .monoWidget] := by decide
/-- P1's text summary "865b". -/
theorem test_hex2 : hex2 0x86#8 ++ hex2 0x5B#8 = ['8', '6', '5', 'b'] := by decide
/-- R92's example: WR.h 0x10, 0x3412, with a comment. -/
theorem test_assembleLine :
    assembleLine ['W', 'R', '.', 'h', ' ', '0', 'x', '1', '0', ',', ' ', '0', 'x', '3', '4', '1', '2', ' ', ';', 'S']
      = some [⟨0x410010#24, 0x3412#64⟩] := by decide
/-- A decimal address, and one above 0xFFFF rejected. -/
theorem test_assembleLine_rd : assembleLine ['R', 'D', '.', 'd', ' ', '6', '5', '5', '3', '5'] = some [⟨0x23FFFF#24, 0#64⟩]
    ∧ assembleLine ['R', 'D', '.', 'd', ' ', '6', '5', '5', '3', '6'] = none := by decide

/-! ### Witnesses: each statement's hypotheses are met -/

theorem wit_DecodeEncode : [0x0000#16, 0x000F#16, 0x0012#16, 0x3FFF#16, 0x5000#16, 0x7FFF#16, 0x8080#16, 0xFFFF#16].all
    (fun a => (Instr.readUnmapped .d a).wellFormed && (Instr.writeUnmapped .b a 1#64).wellFormed) = true := by decide

theorem wit_EncodeDecode : decode ⟨0x43807C#24, 5#64⟩ = .ok (.writeMono .d 0x7C#7 5#64)
    ∧ (Instr.writeMono .d 0x7C#7 5#64).usesWdata = true ∧ decode ⟨0x23807C#24, 5#64⟩ = .ok (.readMono .d 0x7C#7) := by
  decide

theorem wit_ReservedFieldRefused : (withEvents [.command ⟨0x044000#24, 0#64⟩]).refusedMark = none
    ∧ (withEvents [.command ⟨0x044000#24, 0#64⟩]).pending = .command ⟨0x044000#24, 0#64⟩ :: []
    ∧ rsvField 0x044000#24 ≠ 0#3 ∧ rsvField 0x3C4000#24 ≠ 0#3 := by decide

theorem wit_NonCanonicalWordRefused_word : decode ⟨0x800000#24, 3#64⟩ = .ok .invalidate
    ∧ opField 0x800000#24 ≠ 0b001#3 ∧ opField 0x800000#24 ≠ 0b010#3 := by decide

theorem wit_NonCanonicalWordRefused_refused :
    (withEvents [.command ⟨0xE00001#24, 0#64⟩]).pending = .command ⟨0xE00001#24, 0#64⟩ :: []
      ∧ (withEvents [.command ⟨0xE00001#24, 0#64⟩]).refusedMark = none ∧ rsvField 0xE00001#24 = 0#3
      ∧ opField 0xE00001#24 ≠ 0b001#3 ∧ opField 0xE00001#24 ≠ 0b010#3 ∧ addrField 0xE00001#24 ≠ 0#16
      ∧ sizeField 0x010000#24 ≠ 0#2 ∧ opField 0x010000#24 = 0b000#3 := by decide

theorem wit_UnusedWriteDataIgnored : (∀ j, j < 8 * Size.b.bytes → (0x1FF#64).getLsbD j = (0xFF#64).getLsbD j)
    ∧ (0x1FF#64 ≠ 0xFF#64) ∧ opField 0x204000#24 ≠ 0b010#3 ∧ opField 0x204000#24 ≠ 0b111#3 := by decide

theorem wit_AssembledLineDecodes : assemble (.wr .h 0x10 0x3412) = some ⟨0x410010#24, 0x3412#64⟩
    ∧ assemble (.rd .d 0xFFFF) = some ⟨0x23FFFF#24, 0#64⟩ ∧ assemble (.rd .d 0x10000) = none
    ∧ 2 ^ 64 - 1 < 2 ^ 64 ∧ assemble (.wr .b 0x10000 0) = none := by decide

theorem wit_StepRunsDecodedCommand : (withEvents [.command ⟨0x600000#24, 0#64⟩]).refusedMark = none
    ∧ (withEvents [.command ⟨0x600000#24, 0#64⟩]).pending = .command ⟨0x600000#24, 0#64⟩ :: []
    ∧ decode ⟨0x600000#24, 0#64⟩ = .ok .reset := by decide

theorem wit_StepRunsPlacedWord : State.reset.refusedMark = none
    ∧ decodeTableWord 24 0x40807F = some (.writeMono .b 0x7F#7 0#64) := by decide

theorem wit_IdleStepIsNop : sample.refusedMark = none ∧ sample.pending = [] := by decide

/-- One event for each line of R192, and one served. -/
theorem wit_StepRefusesByTable : refusalOf false (.command ⟨0x000000#24, 0#64⟩) = some .uninitialised
    ∧ refusalOf true (.command ⟨0x040000#24, 0#64⟩) = some .reserved
    ∧ refusalOf true (.command ⟨0xE00000#24, 0x100#64⟩) = some .restoreRange
    ∧ refusalOf true (.fetch 0#16) = some .fetch
    ∧ refusalOf true (.commands ⟨0#24, 0#64⟩ ⟨0#24, 0#64⟩ []) = some .concurrent
    ∧ refusalOf false (.command ⟨0x600000#24, 0#64⟩) = none ∧ refusalOf true (.command ⟨0x23FFFF#24, 0#64⟩) = none
    ∧ (withEvents [.fetch 0#16]).refusedMark = none ∧ (withEvents [.fetch 0#16]).pending = .fetch 0#16 :: [] := by
  decide

theorem wit_RefusalIsFinal : step (withEvents [.fetch 0#16]) = .refused .fetch := by rfl

theorem wit_OutsideInterfaceRefused :
    (withEvents [.commands ⟨0#24, 0#64⟩ ⟨0x600000#24, 0#64⟩ []]).pending
        = .commands ⟨0#24, 0#64⟩ ⟨0x600000#24, 0#64⟩ [] :: []
      ∧ (withEvents [.fetch 0x4000#16]).pending = .fetch 0x4000#16 :: [] ∧ sample.refusedMark = none := by decide

theorem wit_UninitialisedRefused : (State.powerOn []).initialised = false ∧ Instr.nop ≠ .reset
    ∧ Instr.restore 0x100#64 ≠ .reset ∧ imageInRange 0x100#64 = false := by
  exact ⟨rfl, by decide⟩

/-- The state of READ, WRITE and the control statements, and their words. -/
theorem wit_initialised : sample.initialised = true ∧ sample.rgb.wf = true ∧ sample.mono.wf = true := by decide

theorem wit_ReadCompletes : opField 0x23FFFF#24 = 0b001#3 ∧ rsvField 0x23FFFF#24 = 0#3 ∧ sample.initialised = true
    ∧ 8 * Size.d.bytes ≤ 64 := by decide

theorem wit_read_words : (0x230010#24 &&& 0xFCFFFF#24 = 0x200010#24) ∧ (0x200011#24 &&& 0xFCFFFF#24 = 0x200011#24)
    ∧ (0x234FFF#24 &&& 0xFCF000#24 = 0x204000#24) ∧ (0x21807F#24 &&& 0xFCFF80#24 = 0x208000#24)
    ∧ rsvField 0x215000#24 = 0#3 ∧ opField 0x215000#24 = 0b001#3
    ∧ (addrField 0x215000#24).unmapped = true := by decide

theorem wit_RegionReadForms : (4095 ≤ 4095) ∧ (127 ≤ 127) ∧ (7 < 8) := by decide

theorem wit_WriteCompletes : opField 0x43FFFF#24 = 0b010#3 ∧ rsvField 0x43FFFF#24 = 0#3
    ∧ sample.initialised = true := by decide

theorem wit_write_words : (0x430010#24 &&& 0xFCFFFF#24 = 0x400010#24) ∧ (0x400011#24 &&& 0xFCFFFF#24 = 0x400011#24)
    ∧ (0x434FFF#24 &&& 0xFCF000#24 = 0x404000#24) ∧ (0x41807F#24 &&& 0xFCFF80#24 = 0x408000#24)
    ∧ rsvField 0x41000F#24 = 0#3 ∧ opField 0x41000F#24 = 0b010#3
    ∧ (addrField 0x41000F#24).unmapped = true := by decide

theorem wit_RegionWriteForms : sample.rgb.wf = true
    ∧ (∀ j, j < 8 * Size.h.bytes → (0x1BEEF#64).getLsbD j = (0xBEEF#64).getLsbD j) := by decide

/-- A WRITE of each target answers a next state. -/
theorem wit_WriteContainment :
    [0x0010#16, 0x0011#16, 0x4FFF#16, 0x807F#16, 0x5000#16].all
      (fun a => (reason (exec (writeInstr .d a 0xA5A5#64) sample)).isNone) = true := by decide

theorem wit_SideEffects : exec (readInstr .b 0x4002#16) sample = .next { sample with rdata := 0xFF#64 }
    ∧ exec (writeInstr .b 0x5000#16 1#64) sample = .next { sample with dirtyDisp := true }
    ∧ sample.rgb.wf = true ∧ sample.mono.wf = true := ⟨rfl, rfl, by decide, by decide⟩

theorem wit_RoundTrip : targetOf 0x0010#16 ≠ .unmapped ∧ targetOf 0x0011#16 ≠ .unmapped ∧ targetOf 0x4FFF#16 ≠ .unmapped
    ∧ targetOf 0x807F#16 ≠ .unmapped ∧ sample.initialised = true ∧ sample.rgb.wf = true ∧ sample.mono.wf = true := by
  decide

/-- The last byte of a width, and the widths at which the two segment registers overlap. -/
theorem wit_OverlappingReadAfterWrite : sample.initialised = true ∧ sample.rgb.wf = true ∧ sample.mono.wf = true
    ∧ 7 < Size.d.bytes ∧ 2 ≤ Size.h.bytes ∧ ¬ 2 ≤ Size.b.bytes := by decide

/-- Two buffers that differ in the last byte of the allocation alone. -/
theorem wit_GuardAbsorption_read :
    (∀ k, k ≤ 4102 → Memory.read [(4103, 9#8)] k = Memory.read [] k)
      ∧ (∀ k, k ≤ 134 → Memory.read [(135, 9#8)] k = Memory.read [] k)
      ∧ exec (readInstr .d 0x4FFF#16) { State.reset with rgb := [(4103, 9#8)], mono := [(135, 9#8)] }
          = .next { State.reset with rgb := [(4103, 9#8)], mono := [(135, 9#8)] }
      ∧ exec (readInstr .d 0x4FFF#16) State.reset = .next State.reset := by
  refine ⟨fun k hk => ?_, fun k hk => ?_, rfl, rfl⟩
  · rw [Memory.read_cons, if_neg (by omega)]
  · rw [Memory.read_cons, if_neg (by omega)]

theorem wit_GuardAbsorption_write : exec (writeInstr .b 0x4FFF#16 3#64) State.reset
      = .next { State.reset with rgb := [(4095, 3#8)] }
    ∧ State.reset.rgb.wf = true ∧ State.reset.mono.wf = true ∧ 4102 < 4103 ∧ 134 < 135 := ⟨rfl, by decide⟩

theorem wit_LastByteOutOfReach :
    exec (.writeMono .b 0x7F#7 3#64) State.reset = .next { State.reset with mono := [(127, 3#8)] }
      ∧ (Instr.writeMono .b 0x7F#7 3#64).op ≠ 0b011#3 ∧ (Instr.writeMono .b 0x7F#7 3#64).op ≠ 0b111#3
      ∧ exec .reset sample = .next State.reset ∧ Instr.reset.op = 0b011#3
      ∧ exec (.restore 0#64) sample = .next State.reset ∧ (Instr.restore 0#64).op = 0b111#3
      ∧ sample.rgb.wf = true ∧ sample.mono.wf = true :=
  ⟨rfl, by decide, by decide, rfl, rfl, rfl, rfl, by decide, by decide⟩

/-- The first and last start address of each range, and two buffers that agree on a READ's span alone. -/
theorem wit_GuardBytesOnlyBySpill : (0x5000 ≤ (0x5000#16).toNat ∧ (0x5007#16).toNat ≤ 0x5007)
    ∧ (0x8080 ≤ (0x8080#16).toNat ∧ (0x8087#16).toNat ≤ 0x8087)
    ∧ (∀ k, (4#12).toNat ≤ k → k < (4#12).toNat + Size.b.bytes →
        Memory.read [(4096, 9#8)] k = Memory.read [] k)
    ∧ exec (.readRgb .b 4#12) { State.reset with rgb := [(4096, 9#8)] }
        = .next { State.reset with rgb := [(4096, 9#8)] }
    ∧ exec (.readRgb .b 4#12) State.reset = .next State.reset
    ∧ (∀ k, (4#7).toNat ≤ k → k < (4#7).toNat + Size.b.bytes → Memory.read [(128, 9#8)] k = Memory.read [] k)
    ∧ exec (.readMono .b 4#7) { State.reset with mono := [(128, 9#8)] }
        = .next { State.reset with mono := [(128, 9#8)] }
    ∧ exec (.readMono .b 4#7) State.reset = .next State.reset := by
  refine ⟨by decide, by decide, fun k _ hk => ?_, rfl, rfl, fun k _ hk => ?_, rfl, rfl⟩
  · have : k < 5 := hk
    rw [Memory.read_cons, if_neg (by omega)]
  · have : k < 5 := hk
    rw [Memory.read_cons, if_neg (by omega)]

theorem wit_NopChangesNothing : sample.initialised = true ∧ (State.powerOn []).initialised = false := ⟨rfl, rfl⟩

/-- An image refused for each field, and one accepted with both registers at their highest value. -/
theorem wit_RestoreFromImage : (0x0000000000000100#64).extractLsb' 8 8 ≠ 0#8 ∧ (0x0000000080000000#64).extractLsb' 24 8 ≠ 0#8
    ∧ (0x8000000000000000#64).extractLsb' 32 32 ≠ 0#32
    ∧ (0x0000000000FF00FF#64).extractLsb' 8 8 = 0#8 ∧ (0x0000000000FF00FF#64).extractLsb' 24 8 = 0#8
    ∧ (0x0000000000FF00FF#64).extractLsb' 32 32 = 0#32 ∧ sample.initialised = true := by decide

theorem wit_SaveRestoreRoundTrip : sample.initialised = true ∧ State.reset.initialised = true := by decide

theorem wit_RestoreLeavesResetState :
    exec (.restore 0xCD00AB#64) sample = .next { State.reset with segL := 0xAB#8, segR := 0xCD#8 } := rfl

/-- One command for each line of R32's table answers a next state. -/
theorem wit_FlagTable :
    [Instr.nop, .readSegR .b, .save, .writeSegL .b 1#64, .reset, .invalidate, .restore 0#64, .frameDone].all
      (fun i => (reason (exec i sample)).isNone) = true := by decide

theorem wit_EveryCommandServed : sample.initialised = true
    ∧ (∀ image, Instr.restore 0xFF00FF#64 = .restore image → imageInRange image = true) := by
  refine ⟨rfl, fun image h => ?_⟩
  cases h
  decide

theorem wit_StepKeepsInv : sample.Inv ∧ step sample = .next sample :=
  ⟨⟨by decide, by decide, by decide, by decide, fun _ => rfl, fun _ => rfl⟩, rfl⟩

theorem wit_InitialisedByResetOnly :
    step { sample with initialised := false, pending := [.command ⟨0x600000#24, 0#64⟩] } = .next State.reset
      ∧ { sample with initialised := false }.initialised = false := ⟨rfl, rfl⟩

theorem wit_FlagsNotReadableOnBus : step (withEvents [.command ⟨0x204002#24, 0#64⟩])
    = .next { sample with rdata := 0xFF#64 } := rfl

/-- Two blocks that differ in a guard word alone. -/
theorem wit_DisplayIgnoresGuardWords :
    (∀ k, k < 4096 → Memory.read [(4096, 9#8)] k = Memory.read [] k)
      ∧ (∀ k, k < 128 → Memory.read [(128, 9#8)] k = Memory.read [] k) := by
  refine ⟨fun k hk => ?_, fun k hk => ?_⟩
  · rw [Memory.read_cons, if_neg (by omega)]
  · rw [Memory.read_cons, if_neg (by omega)]

/-- A block without the mark for each setting of the flags. -/
theorem wit_CompositionPassIdempotent : sample.initialised = true ∧ sample.refusedMark = none
    ∧ (sample.dirtyBg = false ∧ sample.dirtyDisp = false)
    ∧ ({ sample with dirtyBg := true }.dirtyBg = true ∧ { sample with dirtyBg := true }.dirtyDisp = false)
    ∧ ({ sample with dirtyDisp := true }.dirtyBg = false ∧ { sample with dirtyDisp := true }.dirtyDisp = true)
    ∧ (State.reset.dirtyBg = true ∧ State.reset.dirtyDisp = true ∧ State.reset.refusedMark = none) := by decide

/-- Each target a start address can select, the last byte shown of each buffer, the commands that ask for no redraw, and
those that ask for one with a next state. -/
theorem wit_FrameDoneHazard : sample.initialised = true ∧ sample.rgb.wf = true ∧ sample.mono.wf = true
    ∧ targetOf 0x0010#16 = .segR ∧ targetOf 0x0011#16 = .segL
    ∧ targetOf 0x4FFD#16 = .rgb ∧ (rgbOffset 0x4FFD#16).toNat ≤ 4095 ∧ 4095 < (rgbOffset 0x4FFD#16).toNat + Size.d.bytes
    ∧ targetOf 0x807F#16 = .mono ∧ (monoOffset 0x807F#16).toNat ≤ 127 ∧ 127 < (monoOffset 0x807F#16).toNat + Size.b.bytes
    ∧ [Instr.nop, .readRgb .b 0#12, .frameDone, .save].all (fun j => !asksRedraw j) = true
    ∧ [Instr.writeUnmapped .b 0#16 0#64, .reset, .invalidate, .restore 0#64].all
        (fun j => asksRedraw j && (reason (exec j sample)).isNone) = true := by decide

end Sys2Proof.Tests
end

/-! PROOF. The statements of 10_state.md: before the first RESET (R34), ResetState (R35), the two flags (R32). -/

namespace Sys2Proof.Proofs

open Sys2Proof.Machine

/-! ### Before the first RESET (R34) -/

/-- Before the first RESET the check of the initialised flag comes before every other one, the image's included. -/
theorem exec_of_uninitialised {i : Instr} {s : State} (hs : s.initialised = false) (hi : i ≠ .reset) :
    exec i s = .refused .uninitialised := by
  rcases exec_cases i s with ⟨-, hperformed, -⟩ | ⟨hrefused, -, -⟩ | ⟨-, hinit, -⟩
  · rcases hperformed with hreset | hinit
    · exact absurd hreset hi
    · simp [hs] at hinit
  · exact hrefused
  · simp [hs] at hinit

theorem displayPort_of_uninitialised {s : State} (hs : s.initialised = false) : displayPort s = none := by
  simp [displayPort, hs]

/-- Settles O17. A RESTORE too is refused `uninitialised`: of the two reasons left open, the model names this one. -/
theorem uninitialisedRefused : Obligations.UninitialisedRefused := fun s hs =>
  ⟨fun _ hi => ⟨.uninitialised, exec_of_uninitialised hs hi, .inl rfl⟩,
    ⟨effect .reset s, exec_reset s⟩, displayPort_of_uninitialised hs⟩

/-! ### The reset state (R35) -/

/-- Of the block before it, RESET keeps the refusal mark and the events to come, and nothing else. -/
theorem effect_reset (s : State) :
    effect .reset s = { State.reset with refusedMark := s.refusedMark, pending := s.pending } := rfl

@[simp] theorem reset_rgbWord (i : Nat) : State.reset.rgbWord i = 0#32 := wordAt_nil i

@[simp] theorem reset_monoWord (i : Nat) : State.reset.monoWord i = 0#32 := wordAt_nil i

/-- Settles O19: RESET is performed in every state, and its effect writes every element but the two it keeps. -/
theorem resetStateValues : Obligations.ResetStateValues :=
  ⟨fun s => by rw [exec_reset, effect_reset], State.reset_segR, State.reset_segL,
    fun i _ => reset_rgbWord i, fun i _ => reset_monoWord i, State.reset_dirtyBg, State.reset_dirtyDisp⟩

/-! ### The two dirty flags (R32) -/

/-- DIRTY_BG is set by every redraw request but a WRITE, cleared by FRAME_DONE, and otherwise kept. -/
theorem effect_dirtyBg (i : Instr) (s : State) :
    (effect i s).dirtyBg = ((asksRedraw i && !i.isWrite) || (s.dirtyBg && i.op ≠ 0b101#3)) := by
  cases i with
  | nop | readSegR | readSegL | readRgb | readMono | readUnmapped | save =>
    simp [effect, asksRedraw, Instr.op]
  | writeSegR | writeSegL | writeRgb | writeMono | writeUnmapped =>
    simp [effect, Instr.isWrite, Instr.op]
  | reset | invalidate | restore =>
    simp [effect, State.restored, asksRedraw, Instr.isWrite, Instr.op]
  | frameDone => simp [effect, asksRedraw, Instr.op]

/-- DIRTY_DISP is set by every redraw request, cleared by FRAME_DONE, and otherwise kept. -/
theorem effect_dirtyDisp (i : Instr) (s : State) :
    (effect i s).dirtyDisp = (asksRedraw i || (s.dirtyDisp && i.op ≠ 0b101#3)) := by
  cases i with
  | nop | readSegR | readSegL | readRgb | readMono | readUnmapped | save | frameDone =>
    simp [effect, asksRedraw, Instr.op]
  | writeSegR | writeSegL | writeRgb | writeMono | writeUnmapped | reset | invalidate | restore =>
    rw [effect_dirtyDisp_of_asksRedraw s rfl]; rfl

/-- Settles O49: each line of R32's table, and stickiness, is read off the equations of the two flags. -/
theorem flagTable : Obligations.FlagTable := by
  intro i s t h
  obtain ⟨rfl, -, -⟩ := exec_next h
  rw [effect_dirtyBg, effect_dirtyDisp]
  refine ⟨?keeps, ?write, ?setsBoth, ?frameDone, ?sticky⟩
  case keeps => rintro (hop | hop | hop) <;> simp [asksRedraw, hop]
  case write => intro hop; simp [asksRedraw, Instr.isWrite, hop]
  case setsBoth => rintro (hop | hop | hop) <;> simp [asksRedraw, Instr.isWrite, hop]
  case frameDone => intro hop; simp [asksRedraw, hop]
  case sticky => intro hop; exact ⟨fun hbg => by simp [hbg, hop], fun hdisp => by simp [hdisp, hop]⟩

end Sys2Proof.Proofs

/-! PROOF. The statements of 20_memory.md: the two forms of a region access (R55, R56), side effects (R63), guard
absorption (R57) and guard bytes (R59). -/

namespace Sys2Proof.Proofs

open Sys2Proof.Machine

/-! ### RegionRead by the window (R55) -/

/-- The window holds every bit of a bus value, at every byte b of its first word. -/
theorem windowRead_eq_regionRead (m : Memory) (off n : Nat) : windowRead m off n = regionRead m off n := by
  apply BitVec.eq_of_getLsbD_eq
  intro j hj
  have hreach : 8 * (off % 4) + j < 96 := by omega
  have hbyte : 4 * (off / 4) + (8 * (off % 4) + j) / 8 = off + j / 8 := by omega
  have hbit : (8 * (off % 4) + j) % 8 = j % 8 := by omega
  rw [windowRead, BitVec.getLsbD_setWidth, BitVec.getLsbD_setWidth, BitVec.getLsbD_ushiftRight,
    window_getLsbD, hbyte, hbit, regionRead_getLsbD, decide_eq_true hreach, Bool.true_and, Bool.and_assoc]

/-- Settles O27: byte by byte the loop's law, and bit by bit the window's. -/
theorem regionReadForms : Obligations.RegionReadForms := fun m off size =>
  ⟨byteOf_regionRead m off size.bytes, windowRead_eq_regionRead m off size.bytes, by omega, by omega⟩

/-! ### RegionWrite by the masked window (R56) -/

/-- The mask covers the bits of bytes b to b + n - 1 of the window. -/
theorem windowMask_getLsbD (off n : Nat) {i j : Nat} (hi : i < 12) (hj : j < 8) :
    (windowMask off n).getLsbD (8 * i + j) = decide (off % 4 ≤ i ∧ i < off % 4 + n) := by
  have hwin : 8 * i + j < 96 := by omega
  rw [windowMask, BitVec.getLsbD_shiftLeft, BitVec.getLsbD_ofNat, Nat.testBit_two_pow_sub_one]
  by_cases hlow : off % 4 ≤ i
  · have hhigh : 8 * i + j - 8 * (off % 4) < 8 * n ↔ i < off % 4 + n := by omega
    simp [hwin, hlow, hhigh, show ¬ 8 * i + j < 8 * (off % 4) by omega, show 8 * i + j - 8 * (off % 4) < 96 by omega]
  · simp [hlow, show 8 * i + j < 8 * (off % 4) by omega]

/-- Byte i of the new window is a byte of v under the mask, and the old byte outside it. -/
theorem windowMerge_byte (m : Memory) (off n : Nat) (v : Data) {i : Nat} (hi : i < 12) :
    (windowMerge m off n v).extractLsb' (8 * i) 8
      = if off % 4 ≤ i ∧ i < off % 4 + n then byteOf v (i - off % 4) else m.read (4 * (off / 4) + i) := by
  apply BitVec.eq_of_getLsbD_eq
  intro j hj
  have hdiv : (8 * i + j) / 8 = i := by omega
  have hmod : (8 * i + j) % 8 = j := by omega
  have hwin : 8 * i + j < 96 := by omega
  rw [BitVec.getLsbD_extractLsb', windowMerge, BitVec.getLsbD_or, BitVec.getLsbD_and, BitVec.getLsbD_and,
    BitVec.getLsbD_not, windowMask_getLsbD off n hi hj, window_getLsbD, hdiv, hmod]
  by_cases hin : off % 4 ≤ i ∧ i < off % 4 + n
  · have hbit : 8 * i + j - 8 * (off % 4) = 8 * (i - off % 4) + j := by omega
    rw [if_pos hin, byteOf_getLsbD, BitVec.getLsbD_shiftLeft, BitVec.getLsbD_setWidth, BitVec.getLsbD_setWidth, hbit]
    simp [hj, hin, hwin, show ¬ 8 * i + j < 8 * (off % 4) by omega, show 8 * (i - off % 4) + j < 96 by omega,
      show 8 * (i - off % 4) + j < 8 * n by omega]
  · rw [if_neg hin]
    simp [hj, hin, hwin]

/-- A byte of a word of the window is a byte of the window. -/
theorem byte_of_word (x : BitVec 96) (low : Nat) {r : Nat} (hr : r < 4) :
    (x.extractLsb' low 32).extractLsb' (8 * r) 8 = x.extractLsb' (low + 8 * r) 8 := by
  apply BitVec.eq_of_getLsbD_eq
  intro j hj
  rw [BitVec.getLsbD_extractLsb', BitVec.getLsbD_extractLsb', BitVec.getLsbD_extractLsb',
    decide_eq_true (show 8 * r + j < 32 by omega), Bool.true_and, Nat.add_assoc]

theorem wf_windowWrite {m : Memory} (hm : m.wf = true) (off n : Nat) (v : Data) :
    (windowWrite m off n v).wf = true :=
  wf_setWord (wf_setWord (wf_setWord hm _ _) _ _) _ _

/-- The twelve bytes of the three words come from the new window; no other byte changes. -/
theorem read_windowWrite {m : Memory} (hm : m.wf = true) (off n : Nat) (v : Data) (k : Nat) :
    (windowWrite m off n v).read k
      = if 4 * (off / 4) ≤ k ∧ k < 4 * (off / 4) + 12
        then (windowMerge m off n v).extractLsb' (8 * (k - 4 * (off / 4))) 8 else m.read k := by
  have hwf0 := wf_setWord hm (off / 4) ((windowMerge m off n v).extractLsb' 0 32)
  have hwf1 := wf_setWord hwf0 (off / 4 + 1) ((windowMerge m off n v).extractLsb' 32 32)
  have hbyte : k % 4 < 4 := Nat.mod_lt k (by omega)
  rw [windowWrite, read_setWord hwf1, read_setWord hwf0, read_setWord hm]
  by_cases h2 : k / 4 = off / 4 + 2
  · rw [if_pos h2, byte_of_word _ 64 hbyte, if_pos (by omega),
      show 8 * (k - 4 * (off / 4)) = 64 + 8 * (k % 4) by omega]
  by_cases h1 : k / 4 = off / 4 + 1
  · rw [if_neg h2, if_pos h1, byte_of_word _ 32 hbyte, if_pos (by omega),
      show 8 * (k - 4 * (off / 4)) = 32 + 8 * (k % 4) by omega]
  by_cases h0 : k / 4 = off / 4
  · rw [if_neg h2, if_neg h1, if_pos h0, byte_of_word _ 0 hbyte, if_pos (by omega),
      show 8 * (k - 4 * (off / 4)) = 0 + 8 * (k % 4) by omega]
  · rw [if_neg h2, if_neg h1, if_neg h0, if_neg (by omega)]

/-- The masked window changes exactly the bytes the loop of R56 writes. -/
theorem windowWrite_eq_regionWrite {m : Memory} (hm : m.wf = true) (off : Nat) (v : Data) {n : Nat} (hn : n ≤ 8) :
    windowWrite m off n v = regionWrite m off v n := by
  refine Memory.eq_of_read (wf_windowWrite hm off n v) (wf_regionWrite hm off v n) fun k => ?_
  rw [read_windowWrite hm, read_regionWrite hm]
  by_cases hwin : 4 * (off / 4) ≤ k ∧ k < 4 * (off / 4) + 12
  · have hspan : off % 4 ≤ k - 4 * (off / 4) ∧ k - 4 * (off / 4) < off % 4 + n ↔ off ≤ k ∧ k < off + n := by omega
    have hsub : k - 4 * (off / 4) - off % 4 = k - off := by omega
    rw [if_pos hwin, windowMerge_byte m off n v (by omega), hsub, Nat.add_sub_cancel' hwin.1]
    simp only [hspan]
  · rw [if_neg hwin, if_neg (by omega)]

/-- A region write uses the low n bytes of v alone. -/
theorem regionWrite_congr (m : Memory) (off : Nat) {v v' : Data} {n : Nat}
    (h : ∀ i, i < n → byteOf v i = byteOf v' i) : regionWrite m off v n = regionWrite m off v' n := by
  induction n with
  | zero => rfl
  | succ n ih => rw [regionWrite, regionWrite, ih fun i hi => h i (by omega), h n (Nat.lt_succ_self n)]

theorem byteOf_congr {v v' : Data} {i : Nat} (h : ∀ j, j < 8 → v.getLsbD (8 * i + j) = v'.getLsbD (8 * i + j)) :
    byteOf v i = byteOf v' i := by
  apply BitVec.eq_of_getLsbD_eq
  intro j hj
  rw [byteOf_getLsbD, byteOf_getLsbD, h j hj]

/-- Of the widths of R83 only eight bytes can reach a third word, and only from a byte past the word's first. -/
theorem spans_third_word_iff (size : Size) {b : Nat} (hb : b < 4) :
    8 < b + size.bytes ↔ size.bytes = 8 ∧ 1 ≤ b := by
  have hbytes : size.bytes ≤ 4 ∨ size.bytes = 8 := by cases size <;> decide
  omega

/-- Settles O34: the two forms leave canonical buffers that read alike, so they leave the same buffer. -/
theorem regionWriteForms : Obligations.RegionWriteForms := fun m off size v hm =>
  ⟨read_regionWrite hm off v size.bytes, windowWrite_eq_regionWrite hm off v size.bytes_le,
    spans_third_word_iff size (by omega), fun _ hlow =>
      regionWrite_congr m off fun i hi => byteOf_congr fun j hj => hlow (8 * i + j) (by omega)⟩

/-! ### What a READ drives and what a WRITE stores, by target (R52, R110, R130) -/

/-- What a READ at a start address drives, by the target the address selects (R110). -/
def readValue (size : Size) (a : Offset) (s : State) : Data :=
  match targetOf a with
  | .segR => segRValue size s
  | .segL => segLValue size s
  | .rgb => regionRead s.rgb (rgbOffset a).toNat size.bytes
  | .mono => regionRead s.mono (monoOffset a).toNat size.bytes
  | .unmapped => 0#64

/-- What a WRITE at a start address stores, by the target the address selects (R130). -/
def storeAt (size : Size) (a : Offset) (v : Data) (s : State) : State :=
  match targetOf a with
  | .segR => s.storeSegR size v
  | .segL => s.storeSegL size v
  | .rgb => s.setRgb (regionWrite s.rgb (rgbOffset a).toNat v size.bytes)
  | .mono => s.setMono (regionWrite s.mono (monoOffset a).toNat v size.bytes)
  | .unmapped => s

/-- A READ drives its value and does nothing else. -/
theorem exec_readInstr (size : Size) (a : Offset) (s : State) :
    exec (readInstr size a) s = whenInitialised s (s.respond (readValue size a s)) := by
  unfold readInstr readValue
  cases targetOf a <;> rfl

/-- A WRITE stores, marks the display and drives zero. -/
theorem exec_writeInstr (size : Size) (a : Offset) (v : Data) (s : State) :
    exec (writeInstr size a v) s = whenInitialised s ((storeAt size a v s).markDisplay.respond 0#64) := by
  unfold writeInstr storeAt
  cases targetOf a <;> rfl

/-! ### Side effects (R63) -/

/-- No READ returns anything of RDATA. -/
@[simp] theorem readValue_respond (size : Size) (a : Offset) (s : State) (v : Data) :
    readValue size a (s.respond v) = readValue size a s := by
  unfold readValue
  cases targetOf a <;> cases size <;> rfl

theorem storeAt_dirtyBg (size : Size) (a : Offset) (v : Data) (s : State) :
    (storeAt size a v s).dirtyBg = s.dirtyBg := by
  unfold storeAt
  cases targetOf a <;> simp

theorem storeAt_initialised (size : Size) (a : Offset) (v : Data) (s : State) :
    (storeAt size a v s).initialised = s.initialised := by
  unfold storeAt
  cases targetOf a <;> simp

theorem regionWrite_idem {m : Memory} (hm : m.wf = true) (off : Nat) (v : Data) (n : Nat) :
    regionWrite (regionWrite m off v n) off v n = regionWrite m off v n := by
  have hw := wf_regionWrite hm off v n
  refine Memory.eq_of_read (wf_regionWrite hw off v n) hw fun k => ?_
  rw [read_regionWrite hw]
  split
  · rw [read_regionWrite hm, if_pos ‹_›]
  · rfl

/-- Storing again what a WRITE has just stored changes nothing. -/
theorem storeAt_idem {s : State} (hrgb : s.rgb.wf = true) (hmono : s.mono.wf = true) (size : Size) (a : Offset)
    (v : Data) :
    storeAt size a v ((storeAt size a v s).markDisplay.respond 0#64)
      = (storeAt size a v s).markDisplay.respond 0#64 := by
  unfold storeAt
  cases targetOf a with
  | segR | segL => cases size <;> rfl
  | rgb => simp [State.setRgb, State.markDisplay, State.respond, regionWrite_idem hrgb]
  | mono => simp [State.setMono, State.markDisplay, State.respond, regionWrite_idem hmono]
  | unmapped => rfl

/-- Settles O36: a READ only responds, and storing is idempotent on canonical buffers. -/
theorem sideEffects : Obligations.SideEffects := by
  refine ⟨fun size a s t h => ?read, fun size a v s t hrgb hmono h => ?write⟩
  case read =>
    rw [exec_readInstr] at h
    obtain ⟨hs, rfl⟩ := whenInitialised_next h
    refine ⟨rfl, ?_⟩
    rw [exec_readInstr, readValue_respond]
    exact whenInitialised_of_true hs
  case write =>
    rw [exec_writeInstr] at h
    obtain ⟨hs, rfl⟩ := whenInitialised_next h
    refine ⟨rfl, storeAt_dirtyBg size a v s, ?_⟩
    rw [exec_writeInstr, storeAt_idem hrgb hmono]
    exact whenInitialised_of_true ((storeAt_initialised size a v s).trans hs)

/-! ### Guard absorption (R57) -/

/-- A READ depends on the segment registers, RGB bytes 0 to 4102 and MONO bytes 0 to 134 alone. -/
theorem readValue_congr {s s' : State} (hrgb : ∀ k, k ≤ 4102 → s.rgb.read k = s'.rgb.read k)
    (hmono : ∀ k, k ≤ 134 → s.mono.read k = s'.mono.read k) (hr : s.segR = s'.segR) (hl : s.segL = s'.segL)
    (size : Size) (a : Offset) : readValue size a s = readValue size a s' := by
  have hsize := size.bytes_le
  unfold readValue
  cases targetOf a with
  | segR => cases size <;> simp [segRValue, hr, hl]
  | segL => cases size <;> simp [segLValue, hl]
  | rgb => exact regionRead_congr fun i _ => hrgb _ (by have := (rgbOffset a).isLt; omega)
  | mono => exact regionRead_congr fun i _ => hmono _ (by have := (monoOffset a).isLt; omega)
  | unmapped => rfl

/-- A WRITE changes no RGB byte from 4103 on. -/
theorem storeAt_rgb_read {s : State} (hm : s.rgb.wf = true) (size : Size) (a : Offset) (v : Data) {k : Nat}
    (hk : 4102 < k) : (storeAt size a v s).rgb.read k = s.rgb.read k := by
  have hsize := size.bytes_le
  have hoff := (rgbOffset a).isLt
  unfold storeAt
  cases targetOf a with
  | rgb => exact (read_regionWrite hm _ v _ k).trans (if_neg (by omega))
  | segR | segL | mono | unmapped => simp

/-- A WRITE changes no MONO byte from 135 on. -/
theorem storeAt_mono_read {s : State} (hm : s.mono.wf = true) (size : Size) (a : Offset) (v : Data) {k : Nat}
    (hk : 134 < k) : (storeAt size a v s).mono.read k = s.mono.read k := by
  have hsize := size.bytes_le
  have hoff := (monoOffset a).isLt
  unfold storeAt
  cases targetOf a with
  | mono => exact (read_regionWrite hm _ v _ k).trans (if_neg (by omega))
  | segR | segL | rgb | unmapped => simp

/-- Settles O39: an offset of 12 or 7 bits and a width of at most 8 stop short of the last byte. -/
theorem guardAbsorption : Obligations.GuardAbsorption := by
  refine ⟨fun size off => ?bounds, fun size a s s' t t' hrgb hmono hr hl h h' => ?read,
    fun size a v s t hrgb hmono h => ?write⟩
  case bounds =>
    have hsize := size.bytes_le
    omega
  case read =>
    rw [exec_readInstr] at h h'
    obtain ⟨-, rfl⟩ := whenInitialised_next h
    obtain ⟨-, rfl⟩ := whenInitialised_next h'
    exact readValue_congr hrgb hmono hr hl size a
  case write =>
    rw [exec_writeInstr] at h
    obtain ⟨-, rfl⟩ := whenInitialised_next h
    exact ⟨fun k hk => storeAt_rgb_read hrgb size a v hk, fun k hk => storeAt_mono_read hmono size a v hk⟩

/-! ### Guard bytes (R59) -/

/-- R115's list of unmapped ranges agrees with R52's comparisons. -/
theorem targetOf_of_unmapped {a : Offset} (h : a.unmapped = true) : targetOf a = .unmapped := by
  simp only [Offset.unmapped, Bool.or_eq_true, Bool.and_eq_true, decide_eq_true_eq] at h
  have hsegR : a ≠ 0x0010#16 := by rintro rfl; revert h; decide
  have hsegL : a ≠ 0x0011#16 := by rintro rfl; revert h; decide
  rw [targetOf, if_neg hsegR, if_neg hsegL, if_neg (by omega), if_neg (by omega)]

theorem unmapped_of_guardAddr {a : Offset}
    (h : (0x5000 ≤ a.toNat ∧ a.toNat ≤ 0x5007) ∨ (0x8080 ≤ a.toNat ∧ a.toNat ≤ 0x8087)) : a.unmapped = true := by
  simp only [Offset.unmapped, Bool.or_eq_true, Bool.and_eq_true, decide_eq_true_eq]
  omega

/-- Settles O41: the guard addresses are unmapped, and a region read depends on its span alone. -/
theorem guardBytesOnlyBySpill : Obligations.GuardBytesOnlyBySpill := by
  refine ⟨fun size a v s hs hguard => ?unmapped, fun size off s s' t t' hspan h h' => ?rgb,
    fun size off s s' t t' hspan h h' => ?mono⟩
  case unmapped =>
    have htarget := targetOf_of_unmapped (unmapped_of_guardAddr hguard)
    have hread : readValue size a s = 0#64 := by simp only [readValue, htarget]
    have hwrite : storeAt size a v s = s := by simp only [storeAt, htarget]
    rw [exec_readInstr, exec_writeInstr, hread, hwrite]
    exact ⟨whenInitialised_of_true hs, whenInitialised_of_true hs⟩
  case rgb =>
    obtain ⟨rfl, -, -⟩ := exec_next h
    obtain ⟨rfl, -, -⟩ := exec_next h'
    exact regionRead_congr fun i hi => hspan _ (by omega) (by omega)
  case mono =>
    obtain ⟨rfl, -, -⟩ := exec_next h
    obtain ⟨rfl, -, -⟩ := exec_next h'
    exact regionRead_congr fun i hi => hspan _ (by omega) (by omega)

end Sys2Proof.Proofs

/-! PROOF. The statements of 30_encoding.md: the two decoders agree (R81 to R89), the refused words (R85, R86) and
the write data a command uses (R87). -/

namespace Sys2Proof.Proofs

open Sys2Proof.Machine

/-! ### The fields of a literal word, and a row of R89 by its fields -/

theorem extractLsb'_ofNat_of_le {w start len : Nat} (h : start + len ≤ w) (n : Nat) :
    (BitVec.ofNat w n).extractLsb' start len = BitVec.ofNat len (n / 2 ^ start) := by
  apply BitVec.eq_of_getLsbD_eq
  intro j hj
  rw [BitVec.getLsbD_extractLsb', BitVec.getLsbD_ofNat, BitVec.getLsbD_ofNat, Nat.testBit_div_two_pow, Nat.add_comm j]
  simp [hj, show start + j < w by omega]

theorem opField_ofNat (n : Nat) : opField (BitVec.ofNat 24 n) = BitVec.ofNat 3 (n / 2 ^ 21) :=
  extractLsb'_ofNat_of_le (by decide) n

theorem rsvField_ofNat (n : Nat) : rsvField (BitVec.ofNat 24 n) = BitVec.ofNat 3 (n / 2 ^ 18) :=
  extractLsb'_ofNat_of_le (by decide) n

theorem sizeField_ofNat (n : Nat) : sizeField (BitVec.ofNat 24 n) = BitVec.ofNat 2 (n / 2 ^ 16) :=
  extractLsb'_ofNat_of_le (by decide) n

theorem addrField_ofNat (n : Nat) : addrField (BitVec.ofNat 24 n) = BitVec.ofNat 16 (n / 2 ^ 0) :=
  extractLsb'_ofNat_of_le (by decide) n

/-- A word matches a row exactly when each of its fields matches the row's field. -/
theorem row_iff (cmd mask m : CmdWord) :
    cmd &&& mask = m ↔ opField cmd &&& opField mask = opField m ∧ rsvField cmd &&& rsvField mask = rsvField m
      ∧ sizeField cmd &&& sizeField mask = sizeField m ∧ addrField cmd &&& addrField mask = addrField m := by
  rw [← mask_match_iff, pack_fields, pack_fields]

/-! ### The region masks are the ranges of R52 (R89) -/

/-- A mask of the bits from k up rounds an address down to a multiple of 2^k. -/
theorem toNat_and_highBits (a : Offset) (k : Nat) :
    (a &&& BitVec.allOnes 16 <<< k).toNat = a.toNat / 2 ^ k * 2 ^ k := by
  rw [← BitVec.shiftLeft_ushiftRight, BitVec.toNat_shiftLeft, BitVec.toNat_ushiftRight, Nat.shiftRight_eq_div_pow,
    Nat.shiftLeft_eq, Nat.mod_eq_of_lt (Nat.lt_of_le_of_lt (Nat.div_mul_le_self _ _) a.isLt)]

theorem and_rgbMask_iff (a : Offset) : a &&& 0xF000#16 = 0x4000#16 ↔ 0x4000 ≤ a.toNat ∧ a.toNat < 0x5000 := by
  rw [← BitVec.toNat_inj, show (0xF000#16) = BitVec.allOnes 16 <<< 12 from rfl, toNat_and_highBits,
    show (0x4000#16).toNat = 0x4000 from rfl]
  omega

theorem and_monoMask_iff (a : Offset) : a &&& 0xFF80#16 = 0x8000#16 ↔ 0x8000 ≤ a.toNat ∧ a.toNat < 0x8080 := by
  rw [← BitVec.toNat_inj, show (0xFF80#16) = BitVec.allOnes 16 <<< 7 from rfl, toNat_and_highBits,
    show (0x8000#16).toNat = 0x8000 from rfl]
  omega

/-- The RGB base is a multiple of 2^12, so the offset is the low 12 bits of the word (R84). -/
theorem rgbOffset_addrField (cmd : CmdWord) : rgbOffset (addrField cmd) = cmd.extractLsb' 0 12 := by
  apply BitVec.eq_of_toNat_eq
  simp only [rgbOffset, addrField, BitVec.toNat_setWidth, BitVec.toNat_sub, BitVec.extractLsb'_toNat,
    BitVec.toNat_ofNat]
  omega

/-- The monochrome base is a multiple of 2^7, so the offset is the low 7 bits of the word (R84). -/
theorem monoOffset_addrField (cmd : CmdWord) : monoOffset (addrField cmd) = cmd.extractLsb' 0 7 := by
  apply BitVec.eq_of_toNat_eq
  simp only [monoOffset, addrField, BitVec.toNat_setWidth, BitVec.toNat_sub, BitVec.extractLsb'_toNat,
    BitVec.toNat_ofNat]
  omega

/-! ### The decoder of R89 is the decoder by fields -/

/-- The eight operations of R82. -/
theorem op_cases (op : BitVec 3) :
    op = 0b000#3 ∨ op = 0b001#3 ∨ op = 0b010#3 ∨ op = 0b011#3 ∨ op = 0b100#3 ∨ op = 0b101#3 ∨ op = 0b110#3
      ∨ op = 0b111#3 := by
  revert op; decide

/-- The rows of READ, in the order of R89, choose the target that R52 chooses. -/
theorem readInstr_eq_rows (size : Size) (cmd : CmdWord) :
    readInstr size (addrField cmd) =
      if addrField cmd = 0x0010#16 then .readSegR size
      else if addrField cmd = 0x0011#16 then .readSegL size
      else if addrField cmd &&& 0xF000#16 = 0x4000#16 then .readRgb size (cmd.extractLsb' 0 12)
      else if addrField cmd &&& 0xFF80#16 = 0x8000#16 then .readMono size (cmd.extractLsb' 0 7)
      else .readUnmapped size (addrField cmd) := by
  simp only [readInstr, targetOf, and_rgbMask_iff, and_monoMask_iff, rgbOffset_addrField, monoOffset_addrField]
  split_ifs <;> rfl

/-- The rows of WRITE, in the order of R89, choose the target that R52 chooses. -/
theorem writeInstr_eq_rows (size : Size) (cmd : CmdWord) (v : Data) :
    writeInstr size (addrField cmd) v =
      if addrField cmd = 0x0010#16 then .writeSegR size v
      else if addrField cmd = 0x0011#16 then .writeSegL size v
      else if addrField cmd &&& 0xF000#16 = 0x4000#16 then .writeRgb size (cmd.extractLsb' 0 12) v
      else if addrField cmd &&& 0xFF80#16 = 0x8000#16 then .writeMono size (cmd.extractLsb' 0 7) v
      else .writeUnmapped size (addrField cmd) v := by
  simp only [writeInstr, targetOf, and_rgbMask_iff, and_monoMask_iff, rgbOffset_addrField, monoOffset_addrField]
  split_ifs <;> rfl

/-- With RSV zero, OP leaves one row for a command without operands, and the five rows of its targets for READ and
for WRITE. -/
theorem decodeWord_eq_decodeFields (cmd : CmdWord) (v : Data) : decodeWord cmd v = decodeFields cmd v := by
  simp only [decodeWord, decodeFields, ne_eq, row_iff, opField_ofNat, rsvField_ofNat, sizeField_ofNat, addrField_ofNat]
  by_cases hr : rsvField cmd = 0#3
  · rcases op_cases (opField cmd) with hop | hop | hop | hop | hop | hop | hop | hop
    case pos.inr.inl => simp [hr, hop, and_allOnes3, and_allOnes16, readInstr_eq_rows, apply_ite Except.ok]
    case pos.inr.inr.inl => simp [hr, hop, and_allOnes3, and_allOnes16, writeInstr_eq_rows, apply_ite Except.ok]
    all_goals simp [hr, hop, bareInstr, and_allOnes2, and_allOnes3, and_allOnes16]
  · simp [hr, and_allOnes3]

theorem decode_eq_decodeFields (c : Command) : decode c = decodeFields c.cmd c.wdata :=
  decodeWord_eq_decodeFields c.cmd c.wdata

/-! ### A command at the port without a meaning (R85, R86, R192) -/

/-- A reserved field that is not 000 leaves the word without a meaning (R85). -/
theorem decode_of_reserved {c : Command} (hr : rsvField c.cmd ≠ 0#3) : decode c = .error .rsvNotZero := by
  rw [decode_eq_decodeFields, decodeFields, if_pos hr]

/-- An operation that is neither READ nor WRITE names a command that takes no SIZE and no ADDR (R86). -/
theorem decode_of_bareOp {c : Command} (hr : rsvField c.cmd = 0#3) (hread : opField c.cmd ≠ 0b001#3)
    (hwrite : opField c.cmd ≠ 0b010#3) : ∃ i, decode c = bareInstr c.cmd i := by
  rw [decode_eq_decodeFields, decodeFields, if_neg (not_not.mpr hr), if_neg hread, if_neg hwrite]
  split_ifs <;> exact ⟨_, rfl⟩

/-- The port refuses a word without a meaning; the block keeps all but RDATA and the refusal mark. -/
theorem step_of_undecodable {s : State} {c : Command} {rest : List PortEvent} {e : DecodeError}
    (hm : s.refusedMark = none) (hp : s.pending = .command c :: rest) (hd : decode c = .error e) :
    step s = .refused .reserved ∧ { s.settle (step s) with pending := s.pending }
      = { s with rdata := 0#64, refusedMark := some .reserved } := by
  have hstep : step s = .refused .reserved := by
    rw [step_of_event hm hp, accept, hd]
  exact ⟨hstep, by rw [hstep]; rfl⟩

/-- Settles O7. Before the first RESET too the model answers `reserved`: it decodes the word first. -/
theorem reservedFieldRefused : Obligations.ReservedFieldRefused := by
  intro s c rest hm hp hr
  obtain ⟨hstep, hframe⟩ := step_of_undecodable hm hp (decode_of_reserved hr)
  exact ⟨.reserved, hstep, .inl rfl, hframe⟩

/-- Settles O8: such a word decodes as `bareInstr` does, which asks for SIZE and ADDR zero. -/
theorem nonCanonicalWordRefused : Obligations.NonCanonicalWordRefused := by
  refine ⟨fun c i hd hread hwrite => ?word, fun s c rest hm hp hr hread hwrite hoperand => ?refused⟩
  case word =>
    have hr : rsvField c.cmd = 0#3 := by
      by_contra hne
      rw [decode_of_reserved hne] at hd
      cases hd
    obtain ⟨j, hj⟩ := decode_of_bareOp hr hread hwrite
    rw [hj, bareInstr] at hd
    split_ifs at hd with hzero
    obtain ⟨hsize, haddr⟩ := hzero
    rw [← hr, ← hsize, ← haddr, pack_fields]
  case refused =>
    obtain ⟨j, hj⟩ := decode_of_bareOp hr hread hwrite
    rw [bareInstr, if_neg (not_and_or.mpr hoperand)] at hj
    obtain ⟨hstep, hframe⟩ := step_of_undecodable hm hp hj
    exact ⟨.reserved, hstep, .inl rfl, hframe⟩

/-! ### The write data a command uses (R87) -/

/-- What a WRITE stores depends on the low 8w bits of its data alone. -/
theorem storeAt_congr {size : Size} {v v' : Data} (h : ∀ j, j < 8 * size.bytes → v.getLsbD j = v'.getLsbD j)
    (a : Offset) (s : State) : storeAt size a v s = storeAt size a v' s := by
  have hbyte : ∀ i, i < size.bytes → byteOf v i = byteOf v' i := fun i hi =>
    byteOf_congr fun j hj => h (8 * i + j) (by omega)
  have hbyte0 := hbyte 0 size.bytes_pos
  unfold storeAt
  cases targetOf a with
  | segR =>
    cases size with
    | b => simp only [State.storeSegR, hbyte0]
    | h | w | d => simp only [State.storeSegR, hbyte0, hbyte 1 (by decide)]
  | segL => cases size <;> simp only [State.storeSegL, hbyte0]
  | rgb => simp only [regionWrite_congr _ _ hbyte]
  | mono => simp only [regionWrite_congr _ _ hbyte]
  | unmapped => rfl

/-- Only WRITE and RESTORE take their write data into the command. -/
theorem decodeFields_ignores_wdata {cmd : CmdWord} (hwrite : opField cmd ≠ 0b010#3) (hrestore : opField cmd ≠ 0b111#3)
    (v v' : Data) : decodeFields cmd v = decodeFields cmd v' := by
  unfold decodeFields
  rcases op_cases (opField cmd) with hop | hop | hop | hop | hop | hop | hop | hop
  case inr.inr.inl => exact absurd hop hwrite
  case inr.inr.inr.inr.inr.inr.inr => exact absurd hop hrestore
  all_goals simp [hop]

/-- Settles O9: what a WRITE stores is its low bytes, and the decoder hands the data to WRITE and RESTORE alone. -/
theorem unusedWriteDataIgnored : Obligations.UnusedWriteDataIgnored := by
  refine ⟨fun size a v v' s h => ?write, fun cmd v v' hwrite hrestore => ?others, fun v => ?restore⟩
  case write => rw [exec_writeInstr, exec_writeInstr, storeAt_congr h]
  case others =>
    rw [decode_eq_decodeFields, decode_eq_decodeFields]
    exact decodeFields_ignores_wdata hwrite hrestore v v'
  case restore =>
    rw [decode_eq_decodeFields]
    simp [decodeFields, bareInstr, opField_ofNat, rsvField_ofNat, sizeField_ofNat, addrField_ofNat]

end Sys2Proof.Proofs

/-! PROOF. The statements of 40_bus_read.md: the word of a READ (R110), what it drives from the segment registers
(R111, R112), from the two regions (R113, R114) and at an unmapped address (R115), and after a WRITE (R116). -/

namespace Sys2Proof.Proofs

open Sys2Proof.Machine

/-! ### The word of a READ (R89, R110) -/

theorem decode_of_readOp {c : Command} (hop : opField c.cmd = 0b001#3) (hr : rsvField c.cmd = 0#3) :
    decode c = .ok (readInstr (accessSize c.cmd) (addrField c.cmd)) := by
  rw [decode_eq_decodeFields]
  simp [decodeFields, hop, hr]

/-- From RGB_BASE on, no start address is that of a segment register. -/
theorem ne_segAddr_of_rgbBase_le {a : Offset} (h : 0x4000 ≤ a.toNat) : a ≠ 0x0010#16 ∧ a ≠ 0x0011#16 := by
  constructor <;> rintro rfl <;> revert h <;> decide

theorem targetOf_of_rgbRange {a : Offset} (h : 0x4000 ≤ a.toNat ∧ a.toNat < 0x5000) : targetOf a = .rgb := by
  obtain ⟨hsegR, hsegL⟩ := ne_segAddr_of_rgbBase_le h.1
  rw [targetOf, if_neg hsegR, if_neg hsegL, if_pos h]

theorem targetOf_of_monoRange {a : Offset} (h : 0x8000 ≤ a.toNat ∧ a.toNat < 0x8080) : targetOf a = .mono := by
  obtain ⟨hsegR, hsegL⟩ := ne_segAddr_of_rgbBase_le (a := a) (by omega)
  rw [targetOf, if_neg hsegR, if_neg hsegL, if_neg (by omega), if_pos h]

/-- Row 3 of R89. -/
theorem decode_of_readSegRRow {c : Command} (h : c.cmd &&& 0xFCFFFF#24 = 0x200010#24) :
    decode c = .ok (.readSegR (accessSize c.cmd)) := by
  obtain ⟨hop, hr, haddr⟩ := (addr_mask_iff c.cmd 0b001#3 0x0010#16).mp h
  rw [decode_of_readOp hop hr, haddr]
  rfl

/-- Row 4 of R89. -/
theorem decode_of_readSegLRow {c : Command} (h : c.cmd &&& 0xFCFFFF#24 = 0x200011#24) :
    decode c = .ok (.readSegL (accessSize c.cmd)) := by
  obtain ⟨hop, hr, haddr⟩ := (addr_mask_iff c.cmd 0b001#3 0x0011#16).mp h
  rw [decode_of_readOp hop hr, haddr]
  rfl

/-- Row 5 of R89. -/
theorem decode_of_readRgbRow {c : Command} (h : c.cmd &&& 0xFCF000#24 = 0x204000#24) :
    decode c = .ok (.readRgb (accessSize c.cmd) (rgbOffset (addrField c.cmd))) := by
  obtain ⟨hop, hr, haddr⟩ := (rgb_mask_iff c.cmd 0b001#3 0x4000#16).mp h
  simp only [decode_of_readOp hop hr, readInstr, targetOf_of_rgbRange ((and_rgbMask_iff _).mp haddr)]

/-- Row 6 of R89. -/
theorem decode_of_readMonoRow {c : Command} (h : c.cmd &&& 0xFCFF80#24 = 0x208000#24) :
    decode c = .ok (.readMono (accessSize c.cmd) (monoOffset (addrField c.cmd))) := by
  obtain ⟨hop, hr, haddr⟩ := (mono_mask_iff c.cmd 0b001#3 0x8000#16).mp h
  simp only [decode_of_readOp hop hr, readInstr, targetOf_of_monoRange ((and_monoMask_iff _).mp haddr)]

/-- Row 7 of R89, which the rows before it leave to the unmapped start addresses. -/
theorem decode_of_readUnmapped {c : Command} (hop : opField c.cmd = 0b001#3) (hr : rsvField c.cmd = 0#3)
    (haddr : (addrField c.cmd).unmapped = true) :
    decode c = .ok (.readUnmapped (accessSize c.cmd) (addrField c.cmd)) := by
  simp only [decode_of_readOp hop hr, readInstr, targetOf_of_unmapped haddr]

/-! ### The segment registers on the bus (R111, R112) -/

/-- Bit j of two bytes side by side, zero above them. -/
theorem setWidth_append_getLsbD (l r : Byte) (j : Nat) :
    ((l ++ r).setWidth 64).getLsbD j = if j < 8 then r.getLsbD j else l.getLsbD (j - 8) := by
  rw [BitVec.getLsbD_setWidth, BitVec.getLsbD_append]
  by_cases h64 : j < 64
  · rw [decide_eq_true h64, Bool.true_and]
  · rw [if_neg (by omega), BitVec.getLsbD_of_ge l (j - 8) (by omega), Bool.and_false]

theorem setWidth_append_eq_or (l r : Byte) : (l ++ r).setWidth 64 = r.setWidth 64 ||| (l.setWidth 64 <<< 8) := by
  apply BitVec.eq_of_getLsbD_eq
  intro j hj
  rw [setWidth_append_getLsbD, BitVec.getLsbD_or, BitVec.getLsbD_shiftLeft, BitVec.getLsbD_setWidth,
    BitVec.getLsbD_setWidth]
  by_cases hlow : j < 8
  · simp [hlow, hj]
  · simp [hlow, hj, BitVec.getLsbD_of_ge r j (by omega), show j - 8 < 64 by omega]

theorem segRValue_eq (size : Size) (s : State) :
    segRValue size s = if size.bytes = 1 then s.segR.setWidth 64
      else s.segR.setWidth 64 ||| (s.segL.setWidth 64 <<< 8) := by
  cases size with
  | b => rfl
  | h | w | d => exact setWidth_append_eq_or s.segL s.segR

/-- Bit j at 0x0010: SEG_R in byte 0, SEG_L in byte 1 where the width reaches it, zero above. -/
theorem segRValue_getLsbD (size : Size) (s : State) (j : Nat) :
    (segRValue size s).getLsbD j
      = (decide (j < 8 * size.bytes) && if j < 8 then s.segR.getLsbD j else s.segL.getLsbD (j - 8)) := by
  cases size with
  | b =>
    rw [segRValue, BitVec.getLsbD_setWidth]
    by_cases hlow : j < 8
    · simp [hlow, Size.bytes, show j < 64 by omega]
    · simp [hlow, Size.bytes, BitVec.getLsbD_of_ge s.segR j (by omega)]
  | h | w | d =>
    rw [segRValue, setWidth_append_getLsbD]
    by_cases htwo : j < 16
    · rw [decide_eq_true (by simp only [Size.bytes]; omega), Bool.true_and]
    · rw [if_neg (by omega), BitVec.getLsbD_of_ge s.segL (j - 8) (by omega), Bool.and_false]

theorem segLValue_eq (size : Size) (s : State) : segLValue size s = s.segL.setWidth 64 := by
  cases size <;> rfl

/-! ### What a READ drives (R110 to R115) -/

/-- No READ drives a bit above its width. -/
theorem readValue_getLsbD_of_ge (size : Size) (a : Offset) (s : State) {j : Nat} (hj : 8 * size.bytes ≤ j) :
    (readValue size a s).getLsbD j = false := by
  have hpos := size.bytes_pos
  unfold readValue
  cases targetOf a with
  | segR => simp [segRValue_getLsbD, hj]
  | segL => rw [segLValue_eq, BitVec.getLsbD_setWidth, BitVec.getLsbD_of_ge _ _ (by omega), Bool.and_false]
  | rgb | mono => simp [regionRead_getLsbD, hj]
  | unmapped => simp

/-- Settles O21: every READ is its value at the port, and no value reaches above the width. -/
theorem readCompletes : Obligations.ReadCompletes := by
  refine ⟨fun c hop hr => decode_of_readOp hop hr, fun size a s hs => ⟨readValue size a s, ?_,
    fun j hj => readValue_getLsbD_of_ge size a s hj⟩⟩
  rw [exec_readInstr]
  exact whenInitialised_of_true hs

/-- Settles O22: row 3, and the two registers side by side as R111 shifts them. -/
theorem readSegRValue : Obligations.ReadSegRValue := by
  refine ⟨fun c h => decode_of_readSegRRow h, fun size s hs => ?_⟩
  rw [← segRValue_eq]
  exact exec_of_initialised hs rfl

/-- Settles O23: row 4, and SEG_L at every width. -/
theorem readSegLValue : Obligations.ReadSegLValue := by
  refine ⟨fun c h => decode_of_readSegLRow h, fun size s hs => ?_⟩
  rw [← segLValue_eq size]
  exact exec_of_initialised hs rfl

/-- Settles O24: row 5, and both forms of the region read. -/
theorem readRgbValue : Obligations.ReadRgbValue := by
  refine ⟨fun c h => decode_of_readRgbRow h, fun size off s hs => ?_⟩
  obtain ⟨hbytes, hwindow, -, -⟩ := regionReadForms s.rgb off.toNat size
  exact ⟨regionRead s.rgb off.toNat size.bytes, exec_of_initialised hs rfl, hbytes, hwindow.symm⟩

/-- Settles O25: row 6, and both forms of the region read. -/
theorem readMonoValue : Obligations.ReadMonoValue := by
  refine ⟨fun c h => decode_of_readMonoRow h, fun size off s hs => ?_⟩
  obtain ⟨hbytes, hwindow, -, -⟩ := regionReadForms s.mono off.toNat size
  exact ⟨regionRead s.mono off.toNat size.bytes, exec_of_initialised hs rfl, hbytes, hwindow.symm⟩

/-- Settles O26: the addresses of R115's list leave row 7 alone, whose command drives zero at every operand. -/
theorem readUnmappedValue : Obligations.ReadUnmappedValue :=
  ⟨fun _ hop hr haddr => decode_of_readUnmapped hop hr haddr, fun _ _ _ hs => exec_of_initialised hs rfl⟩

/-! ### A READ after a WRITE at the same address and width (R116) -/

/-- Neither the flag a WRITE sets nor the zero it drives is read back. -/
@[simp] theorem readValue_markDisplay (size : Size) (a : Offset) (s : State) :
    readValue size a s.markDisplay = readValue size a s := by
  unfold readValue
  cases targetOf a <;> cases size <;> rfl

/-- The span just written reads back as the low bytes of v. -/
theorem regionRead_regionWrite_getLsbD {m : Memory} (hm : m.wf = true) (off : Nat) (v : Data) (n : Nat) {j : Nat}
    (hj : j < 64) :
    (regionRead (regionWrite m off v n) off n).getLsbD j = (v.getLsbD j && decide (j < 8 * n)) := by
  rw [regionRead_getLsbD, read_regionWrite hm]
  by_cases hin : j < 8 * n
  · rw [if_pos (by omega), Nat.add_sub_cancel_left, ← getLsbD_eq_byteOf]
    simp [hj, hin]
  · simp [hin]

/-- SEG_R and SEG_L read back as the low two bytes of v, SEG_R alone at width 1. -/
theorem segRValue_storeSegR_getLsbD (size : Size) (v : Data) (s : State) (j : Nat) :
    (segRValue size (s.storeSegR size v)).getLsbD j
      = (v.getLsbD j && decide (j < 8 * size.bytes) && decide (j < 16)) := by
  rw [segRValue_getLsbD, State.storeSegR_segR, State.storeSegR_segL, byteOf_getLsbD]
  by_cases hw : j < 8 * size.bytes
  case neg => simp [hw]
  by_cases hlow : j < 8
  case pos => simp [hw, hlow, show j < 16 by omega]
  have hsize : size ≠ .b := by rintro rfl; exact hlow hw
  rw [if_neg hlow, if_neg hsize, byteOf_getLsbD, show 8 * 1 + (j - 8) = j by omega]
  simp [hw, show j - 8 < 8 ↔ j < 16 by omega, Bool.and_comm]

/-- SEG_L reads back as the low byte of v. -/
theorem segLValue_storeSegL_getLsbD (size : Size) (v : Data) (s : State) (j : Nat) :
    (segLValue size (s.storeSegL size v)).getLsbD j
      = (v.getLsbD j && decide (j < 8 * size.bytes) && decide (j < 8)) := by
  have hpos := size.bytes_pos
  rw [segLValue_eq, State.storeSegL_segL, BitVec.getLsbD_setWidth, byteOf_getLsbD]
  by_cases hlow : j < 8
  · simp [hlow, show j < 64 by omega, show j < 8 * size.bytes by omega]
  · simp [hlow]

/-- A READ finds what the WRITE before it stored, as far as the target's width reaches. -/
theorem readValue_storeAt_getLsbD {s : State} (hrgb : s.rgb.wf = true) (hmono : s.mono.wf = true) (size : Size)
    {a : Offset} (v : Data) (ha : targetOf a ≠ .unmapped) {j : Nat} (hj : j < 64) :
    (readValue size a (storeAt size a v s)).getLsbD j
      = (v.getLsbD j && decide (j < 8 * size.bytes)
          && decide (targetOf a = .segR → j < 16) && decide (targetOf a = .segL → j < 8)) := by
  unfold readValue storeAt
  cases htarget : targetOf a with
  | segR => simp [segRValue_storeSegR_getLsbD]
  | segL => simp [segLValue_storeSegL_getLsbD]
  | rgb => simp [regionRead_regionWrite_getLsbD hrgb _ v size.bytes hj]
  | mono => simp [regionRead_regionWrite_getLsbD hmono _ v size.bytes hj]
  | unmapped => exact absurd htarget ha

/-- Settles O37: of the state a WRITE leaves, READ sees the storage alone. -/
theorem roundTrip : Obligations.RoundTrip := by
  intro size a v s hs hrgb hmono ha
  refine ⟨_, _, (exec_writeInstr size a v s).trans (whenInitialised_of_true hs),
    (exec_readInstr size a _).trans (whenInitialised_of_true ((storeAt_initialised size a v s).trans hs)),
    fun j hj => ?_⟩
  rw [State.respond_rdata, readValue_respond, readValue_markDisplay]
  exact readValue_storeAt_getLsbD hrgb hmono size v ha hj

end Sys2Proof.Proofs

/-! PROOF. The statements of 41_bus_write.md: the word of a WRITE (R130), what it stores in the segment registers
(R131, R132), in the two regions (R133, R134) and at an unmapped address (R135), and what it leaves alone (R136). -/

namespace Sys2Proof.Proofs

open Sys2Proof.Machine

/-! ### The word of a WRITE (R89, R130) -/

theorem decode_of_writeOp {c : Command} (hop : opField c.cmd = 0b010#3) (hr : rsvField c.cmd = 0#3) :
    decode c = .ok (writeInstr (accessSize c.cmd) (addrField c.cmd) c.wdata) := by
  rw [decode_eq_decodeFields]
  simp [decodeFields, hop, hr]

/-- Row 8 of R89. -/
theorem decode_of_writeSegRRow {c : Command} (h : c.cmd &&& 0xFCFFFF#24 = 0x400010#24) :
    decode c = .ok (.writeSegR (accessSize c.cmd) c.wdata) := by
  obtain ⟨hop, hr, haddr⟩ := (addr_mask_iff c.cmd 0b010#3 0x0010#16).mp h
  rw [decode_of_writeOp hop hr, haddr]
  rfl

/-- Row 9 of R89. -/
theorem decode_of_writeSegLRow {c : Command} (h : c.cmd &&& 0xFCFFFF#24 = 0x400011#24) :
    decode c = .ok (.writeSegL (accessSize c.cmd) c.wdata) := by
  obtain ⟨hop, hr, haddr⟩ := (addr_mask_iff c.cmd 0b010#3 0x0011#16).mp h
  rw [decode_of_writeOp hop hr, haddr]
  rfl

/-- Row 10 of R89. -/
theorem decode_of_writeRgbRow {c : Command} (h : c.cmd &&& 0xFCF000#24 = 0x404000#24) :
    decode c = .ok (.writeRgb (accessSize c.cmd) (rgbOffset (addrField c.cmd)) c.wdata) := by
  obtain ⟨hop, hr, haddr⟩ := (rgb_mask_iff c.cmd 0b010#3 0x4000#16).mp h
  simp only [decode_of_writeOp hop hr, writeInstr, targetOf_of_rgbRange ((and_rgbMask_iff _).mp haddr)]

/-- Row 11 of R89. -/
theorem decode_of_writeMonoRow {c : Command} (h : c.cmd &&& 0xFCFF80#24 = 0x408000#24) :
    decode c = .ok (.writeMono (accessSize c.cmd) (monoOffset (addrField c.cmd)) c.wdata) := by
  obtain ⟨hop, hr, haddr⟩ := (mono_mask_iff c.cmd 0b010#3 0x8000#16).mp h
  simp only [decode_of_writeOp hop hr, writeInstr, targetOf_of_monoRange ((and_monoMask_iff _).mp haddr)]

/-- Row 12 of R89, which the rows before it leave to the unmapped start addresses. -/
theorem decode_of_writeUnmapped {c : Command} (hop : opField c.cmd = 0b010#3) (hr : rsvField c.cmd = 0#3)
    (haddr : (addrField c.cmd).unmapped = true) :
    decode c = .ok (.writeUnmapped (accessSize c.cmd) (addrField c.cmd) c.wdata) := by
  simp only [decode_of_writeOp hop hr, writeInstr, targetOf_of_unmapped haddr]

/-- Settles O28: the store of a WRITE keeps DIRTY_BG, and the other two values are its last two updates. -/
theorem writeCompletes : Obligations.WriteCompletes :=
  ⟨fun _ hop hr => decode_of_writeOp hop hr, fun size a v s hs =>
    ⟨_, (exec_writeInstr size a v s).trans (whenInitialised_of_true hs), rfl, storeAt_dirtyBg size a v s, rfl⟩⟩

/-! ### The two regions (R133, R134) -/

/-- Settles O31: row 10, and both forms of the region write. -/
theorem writeRgbEffect : Obligations.WriteRgbEffect := by
  refine ⟨fun c h => decode_of_writeRgbRow h, fun size off v s hs hm => ?_⟩
  obtain ⟨hbytes, hwindow, -, -⟩ := regionWriteForms s.rgb off.toNat size v hm
  exact ⟨regionWrite s.rgb off.toNat v size.bytes, exec_of_initialised hs rfl, wf_regionWrite hm _ _ _, hbytes,
    hwindow.symm⟩

/-- Settles O32: row 11, and both forms of the region write. -/
theorem writeMonoEffect : Obligations.WriteMonoEffect := by
  refine ⟨fun c h => decode_of_writeMonoRow h, fun size off v s hs hm => ?_⟩
  obtain ⟨hbytes, hwindow, -, -⟩ := regionWriteForms s.mono off.toNat size v hm
  exact ⟨regionWrite s.mono off.toNat v size.bytes, exec_of_initialised hs rfl, wf_regionWrite hm _ _ _, hbytes,
    hwindow.symm⟩

/-! ### What a WRITE leaves alone (R136) -/

section StoreFrame

variable (size : Size) {a : Offset} (v : Data) (s : State)

theorem storeAt_segR_of_ne (h : targetOf a ≠ .segR) : (storeAt size a v s).segR = s.segR := by
  unfold storeAt
  cases htarget : targetOf a with
  | segR => exact absurd htarget h
  | segL | rgb | mono | unmapped => simp

theorem storeAt_segL_of_ne (hr : targetOf a ≠ .segR) (hl : targetOf a ≠ .segL) :
    (storeAt size a v s).segL = s.segL := by
  unfold storeAt
  cases htarget : targetOf a with
  | segR => exact absurd htarget hr
  | segL => exact absurd htarget hl
  | rgb | mono | unmapped => simp

theorem storeAt_rgb_of_ne (h : targetOf a ≠ .rgb) : (storeAt size a v s).rgb = s.rgb := by
  unfold storeAt
  cases htarget : targetOf a with
  | rgb => exact absurd htarget h
  | segR | segL | mono | unmapped => simp

theorem storeAt_mono_of_ne (h : targetOf a ≠ .mono) : (storeAt size a v s).mono = s.mono := by
  unfold storeAt
  cases htarget : targetOf a with
  | mono => exact absurd htarget h
  | segR | segL | rgb | unmapped => simp

theorem storeAt_refusedMark : (storeAt size a v s).refusedMark = s.refusedMark := by
  unfold storeAt
  cases targetOf a <;> simp

theorem storeAt_pending : (storeAt size a v s).pending = s.pending := by
  unfold storeAt
  cases targetOf a <;> simp

end StoreFrame

/-- Settles O35: beside its store a WRITE updates DIRTY_DISP and RDATA alone. -/
theorem writeContainment : Obligations.WriteContainment := by
  intro size a v s t h
  rw [exec_writeInstr] at h
  obtain ⟨-, rfl⟩ := whenInitialised_next h
  exact ⟨storeAt_segR_of_ne size v s, storeAt_segL_of_ne size v s, storeAt_rgb_of_ne size v s,
    storeAt_mono_of_ne size v s, storeAt_dirtyBg size a v s, storeAt_initialised size a v s,
    storeAt_refusedMark size v s, storeAt_pending size v s⟩

/-! ### The segment registers and the unmapped addresses (R131, R132, R135) -/

theorem storeSegR_eq (s : State) (size : Size) (v : Data) :
    s.storeSegR size v = s.setSegs (byteOf v 0) (if size.bytes = 1 then s.segL else byteOf v 1) := by
  cases size <;> rfl

theorem storeSegL_eq (s : State) (size : Size) (v : Data) :
    s.storeSegL size v = s.setSegs s.segR (byteOf v 0) := by
  cases size <;> rfl

/-- Settles O29: row 8, and SEG_L stored with SEG_R at the widths above one byte. -/
theorem writeSegREffect : Obligations.WriteSegREffect := by
  refine ⟨fun c h => decode_of_writeSegRRow h, fun size v s hs => ?_⟩
  rw [exec_of_initialised hs rfl, effect, storeSegR_eq]
  rfl

/-- Settles O30: row 9, and SEG_L stored alone at every width. -/
theorem writeSegLEffect : Obligations.WriteSegLEffect := by
  refine ⟨fun c h => decode_of_writeSegLRow h, fun size v s hs => ?_⟩
  rw [exec_of_initialised hs rfl, effect, storeSegL_eq]
  rfl

/-- Settles O33: the addresses of R135's list leave row 12 alone, whose command stores nothing at every operand. -/
theorem writeUnmappedEffect : Obligations.WriteUnmappedEffect :=
  ⟨fun _ hop hr haddr => decode_of_writeUnmapped hop hr haddr, fun _ _ _ _ hs => exec_of_initialised hs rfl⟩

end Sys2Proof.Proofs

/-! PROOF. The statements of 42_control.md: the words of the control commands (R86, R89), NOP (R150), RESET (R151),
INVALIDATE (R152), FRAME_DONE (R153), and SAVE with RESTORE (R154 to R156). -/

namespace Sys2Proof.Proofs

open Sys2Proof.Machine

/-! ### The word of a control command (R89, rows 2 and 13 to 16) -/

/-- A command that takes no SIZE, no ADDR and no write data is its OP alone, whatever stands beside it at the port. -/
theorem decode_of_bareWord {i : Instr} {cmd : CmdWord} (hbare : bareOp i.op = true) (hdata : i.usesWdata = false)
    (hword : pack i.op 0#3 0#2 0#16 = cmd) (v : Data) : decode ⟨cmd, v⟩ = .ok i := by
  subst hword
  rw [decode_eq_decodeFields]
  cases i with
  | readSegR | readSegL | readRgb | readMono | readUnmapped => cases hbare
  | writeSegR | writeSegL | writeRgb | writeMono | writeUnmapped | restore => cases hdata
  | nop | reset | invalidate | frameDone | save => simp [decodeFields, bareInstr, Instr.op]

/-! ### NOP, INVALIDATE and FRAME_DONE (R150, R152, R153) -/

/-- Settles O42: row 2, and the check of the initialised flag. -/
theorem nopChangesNothing : Obligations.NopChangesNothing :=
  ⟨decode_of_bareWord rfl rfl rfl, fun _ =>
    ⟨fun hs => exec_of_initialised hs rfl, fun hs => exec_of_uninitialised hs nofun⟩⟩

/-- Settles O43: row 14, and the effect as R152 states it. -/
theorem invalidateSetsBothFlags : Obligations.InvalidateSetsBothFlags :=
  ⟨decode_of_bareWord rfl rfl rfl, fun _ hs => exec_of_initialised hs rfl⟩

/-- Settles O44: row 15, and the effect as R153 states it. -/
theorem frameDoneClearsBothFlags : Obligations.FrameDoneClearsBothFlags :=
  ⟨decode_of_bareWord rfl rfl rfl, fun _ hs => exec_of_initialised hs rfl⟩

/-! ### RESET (R151) -/

/-- Settles O18: row 13, and each element as ResetState holds it. -/
theorem resetCommand : Obligations.ResetCommand := by
  refine ⟨decode_of_bareWord rfl rfl rfl, fun s => ?_⟩
  rw [exec_reset, effect_reset]
  exact ⟨_, rfl, State.reset_segR, State.reset_segL, fun i _ => reset_rgbWord i, fun i _ => reset_monoWord i,
    State.reset_dirtyBg, State.reset_dirtyDisp, State.reset_initialised, State.reset_rdata, rfl, rfl⟩

/-! ### The saved image (R154) -/

theorem savedImage_leftField (s : State) : s.savedImage.extractLsb' 0 16 = s.segL.setWidth 16 := by
  rw [State.savedImage, BitVec.extractLsb'_append_eq_of_add_le (by decide), BitVec.extractLsb'_append_eq_right]

theorem savedImage_rightField (s : State) : s.savedImage.extractLsb' 16 16 = s.segR.setWidth 16 := by
  rw [State.savedImage, BitVec.extractLsb'_append_eq_of_add_le (by decide), BitVec.extractLsb'_append_eq_left]

theorem savedImage_upperHalf (s : State) : s.savedImage.extractLsb' 32 32 = 0#32 :=
  BitVec.extractLsb'_append_eq_left

/-- Settles O45: row 16, and the three fields of the image. -/
theorem saveDrivesImage : Obligations.SaveDrivesImage :=
  ⟨decode_of_bareWord rfl rfl rfl, fun s hs => ⟨s.savedImage, exec_of_initialised hs rfl, savedImage_leftField s,
    savedImage_rightField s, savedImage_upperHalf s⟩⟩

/-! ### RESTORE (R155, R156) -/

theorem imageInRange_iff (image : Data) : imageInRange image = true ↔
    image.extractLsb' 8 8 = 0#8 ∧ image.extractLsb' 24 8 = 0#8 ∧ image.extractLsb' 32 32 = 0#32 := by
  simp [imageInRange, and_assoc]

/-- An accepted RESTORE leaves ResetState with the registers of its image; of the block before it, it keeps what R36
names and the events to come. -/
theorem effect_restore (image : Data) (s : State) :
    effect (.restore image) s = { State.reset with
      segL := image.extractLsb' 0 8, segR := image.extractLsb' 16 8, initialised := s.initialised,
      refusedMark := s.refusedMark, pending := s.pending } := rfl

theorem exec_restore_of_outOfRange {image : Data} {s : State} (hs : s.initialised = true)
    (himage : imageInRange image = false) : exec (.restore image) s = .refused .restoreRange := by
  rcases exec_cases (.restore image) s with ⟨-, -, haccepted⟩ | ⟨-, -, huninit⟩ | ⟨hrefused, -⟩
  · exact absurd (himage.symm.trans haccepted) (by decide)
  · exact absurd (hs.symm.trans huninit) (by decide)
  · exact hrefused

/-- Settles O46: row 17, and the image check decides between the refusal and the effect. -/
theorem restoreFromImage : Obligations.RestoreFromImage := by
  obtain ⟨-, -, hword⟩ := unusedWriteDataIgnored
  refine ⟨hword, fun image s hs => ⟨fun hout => ?refused, fun hleft hright hupper => ?accepted⟩⟩
  case refused =>
    have himage : imageInRange image = false := by
      rw [← Bool.not_eq_true, imageInRange_iff, not_and_or, not_and_or]
      exact hout
    rw [exec_restore_of_outOfRange hs himage, settle_refused]
    exact ⟨rfl, rfl⟩
  case accepted =>
    have himage : imageAccepted (.restore image) = true := (imageInRange_iff image).mpr ⟨hleft, hright, hupper⟩
    rw [exec_of_initialised hs himage, effect_restore]
    exact ⟨_, rfl, rfl, rfl, fun i _ => wordAt_nil i, fun i _ => wordAt_nil i, rfl, rfl, rfl, rfl, rfl, rfl⟩

/-- A register in its 16-bit field of an image: the lower byte gives it back, the upper byte is zero (R154). -/
theorem bytes_of_registerField {image : Data} {start : Nat} {b : Byte}
    (h : image.extractLsb' start 16 = b.setWidth 16) :
    image.extractLsb' start 8 = b ∧ image.extractLsb' (start + 8) 8 = 0#8 := by
  have hsub : ∀ k, k + 8 ≤ 16 → image.extractLsb' (start + k) 8 = (0#8 ++ b).extractLsb' k 8 := fun k hk => by
    have hfield : image.extractLsb' (start + k) 8 = (image.extractLsb' start 16).extractLsb' k 8 := by
      ext j hj
      simp [show k + j < 16 by omega, Nat.add_assoc]
    rw [hfield, h, BitVec.setWidth_eq_append (by decide), BitVec.cast_eq]
  exact ⟨(hsub 0 (by decide)).trans BitVec.extractLsb'_append_eq_right,
    (hsub 8 (by decide)).trans BitVec.extractLsb'_append_eq_left⟩

/-- Settles O47: of R154's image each field is a register with a zero byte above it, so R155 accepts the image and
takes the registers from it. -/
theorem saveRestoreRoundTrip : Obligations.SaveRestoreRoundTrip := by
  intro s u hs hu
  obtain ⟨-, hsaves⟩ := saveDrivesImage
  obtain ⟨-, hrestores⟩ := restoreFromImage
  obtain ⟨image, hsave, hleft, hright, hupper⟩ := hsaves s hs
  obtain ⟨hsegL, hleftZero⟩ := bytes_of_registerField hleft
  obtain ⟨hsegR, hrightZero⟩ := bytes_of_registerField hright
  obtain ⟨-, haccepted⟩ := hrestores image u hu
  obtain ⟨r, hrestore, hrL, hrR, hrgb, hmono, hbg, hdisp, -⟩ := haccepted hleftZero hrightZero hupper
  exact ⟨_, hsave, r, hrestore, hrL.trans hsegL, hrR.trans hsegR, hrgb, hmono, hbg, hdisp⟩

end Sys2Proof.Proofs

/-! PROOF. The statements of 43_display_port.md: what the port exports (R171 to R174), the text summary (R176) and a
composition pass (R177). -/

namespace Sys2Proof.Proofs

open Sys2Proof.Machine

/-! ### The pixels (R172, R173) -/

theorem pixelAt_exported (s : State) (r c : Fin 32) :
    pixelAt (exported s) r c = s.rgbWord (32 * r.val + c.val) := exported_pix s _ _

theorem monoPixelAt_exported (s : State) (r c : Fin 32) :
    monoPixelAt (exported s) r c = (s.monoWord r.val).getLsbD (31 - c.val) := by
  rw [monoPixelAt, exported_row]

/-- The colours of RGB[i] are bytes 0 to 2 of the word (R26). -/
theorem colours_rgbWord (s : State) (i : Nat) :
    blueOf (s.rgbWord i) = s.rgb.read (4 * i) ∧ greenOf (s.rgbWord i) = s.rgb.read (4 * i + 1)
      ∧ redOf (s.rgbWord i) = s.rgb.read (4 * i + 2) :=
  ⟨wordAt_byte s.rgb i 0 (by decide), wordAt_byte s.rgb i 1 (by decide), wordAt_byte s.rgb i 2 (by decide)⟩

/-- Settles O56: the port exports the words as stored, and a pixel is its word or its row's bit. -/
theorem displayExports : Obligations.DisplayExports := fun s hs =>
  ⟨exported s, displayPort_of_initialised hs, rfl, rfl, rfl, rfl,
    fun i => exported_pix s i.val i.isLt, fun r => exported_row s r.val r.isLt,
    fun r c => by
      rw [pixelAt_exported]
      exact ⟨rfl, colours_rgbWord s (32 * r.val + c.val)⟩,
    monoPixelAt_exported s⟩

/-! ### The text summary (R176) -/

/-- The lower-case hexadecimal digits in the order of their values. -/
def hexDigits : List Char := ['0', '1', '2', '3', '4', '5', '6', '7', '8', '9', 'a', 'b', 'c', 'd', 'e', 'f']

/-- The character codes of R176's digit are the entries of `hexDigits`. -/
theorem hexDigit_eq_getD : ∀ n : BitVec 4, hexDigit n = hexDigits.getD n.toNat '?' := by decide

theorem hex2_eq_getD (b : Byte) :
    hex2 b = [hexDigits.getD (b.toNat / 16) '?', hexDigits.getD (b.toNat % 16) '?'] := by
  have hhigh : (b.extractLsb' 4 4).toNat = b.toNat / 16 := by
    rw [BitVec.extractLsb'_toNat, Nat.shiftRight_eq_div_pow]
    omega
  have hlow : (b.extractLsb' 0 4).toNat = b.toNat % 16 := BitVec.extractLsb'_toNat ..
  rw [hex2, hexDigit_eq_getD, hexDigit_eq_getD, hhigh, hlow]

theorem textSummary_exported (s : State) : textSummary (exported s) = hex2 s.segL ++ hex2 s.segR := rfl

/-- Settles O58: each register's two digits are looked up by value, and an accepted RESTORE takes the registers from
its image. -/
theorem textSummary : Obligations.TextSummary := by
  refine ⟨fun d bg disp => ?digits, fun s hs => ?restored⟩
  case digits =>
    rw [Machine.textSummary, hex2_eq_getD, hex2_eq_getD]
    rfl
  case restored =>
    obtain ⟨-, hrestores⟩ := restoreFromImage
    obtain ⟨-, haccepted⟩ := hrestores 0x0000000000CD00AB#64 s hs
    obtain ⟨t, hexec, hsegL, hsegR, -, -, -, -, -, hinit, -⟩ := haccepted (by decide) (by decide) (by decide)
    refine ⟨t, hexec, ?_⟩
    rw [displayPort_of_initialised (hinit.trans hs), Option.map_some, textSummary_exported, hsegL, hsegR]
    decide

/-! ### A composition pass (R177) -/

/-- On an initialised block a pass draws what the exported flags ask and has the effect of one FRAME_DONE. -/
theorem compositionPass_of_initialised {s : State} (hs : s.initialised = true) :
    compositionPass s = (some (drawList (exported s)), .next (effect .frameDone s)) := by
  rw [compositionPass, displayPort_of_initialised hs, exec_of_initialised hs rfl, Option.map_some]

theorem effect_frameDone (s : State) :
    effect .frameDone s = { s with dirtyBg := false, dirtyDisp := false, rdata := 0#64 } := rfl

/-- A second FRAME_DONE finds the flags clear and the read data 0. -/
theorem effect_frameDone_idem (s : State) : effect .frameDone (effect .frameDone s) = effect .frameDone s := rfl

/-- After FRAME_DONE the flags ask a pass to draw nothing. -/
theorem drawList_effect_frameDone (s : State) : drawList (exported (effect .frameDone s)) = [] := rfl

/-- Settles O59: the flags choose the list, and the FRAME_DONE that ends a pass leaves nothing to the next one. -/
theorem compositionPassIdempotent : Obligations.CompositionPassIdempotent := by
  intro s hs _
  rw [compositionPass_of_initialised hs]
  have hdone : (effect .frameDone s).initialised = true := effect_initialised hs
  refine ⟨fun hbg hdisp => ?_, fun hbg hdisp => ?_, fun hbg hdisp => ?_, fun hbg hdisp => ?_,
    effect .frameDone s, rfl, effect_frameDone s, ?next⟩
  case next =>
    rw [compositionPass_of_initialised hdone, effect_frameDone_idem, drawList_effect_frameDone]
  all_goals simp [hbg, hdisp]

end Sys2Proof.Proofs

/-! PROOF. The statements of 30_encoding.md on the round trip of a command and its word (R81 to R89), the masks of the
region rows and the assembled lines (R92), with the address map of 20_memory.md (R51, R52). -/

namespace Sys2Proof.Proofs

open Sys2Proof.Machine

/-- Settles O3: the decoder by rows is the decoder by fields on every word. -/
theorem decodeByFields : Obligations.DecodeByFields := decode_eq_decodeFields

/-! ### The address map (R51, R52) -/

/-- Settles O5: R52's comparisons taken one after another leave disjoint ranges. -/
theorem addressMap : Obligations.AddressMap := by
  intro a
  simp only [targetOf, ← BitVec.toNat_inj, BitVec.toNat_ofNat]
  split_ifs with hsegR hsegL hrgb hmono <;> simp only [true_iff, false_iff] <;> omega

theorem targetOf_rgbAddr (off : BitVec 12) : targetOf (rgbAddr off) = .rgb := by
  apply targetOf_of_rgbRange
  rw [toNat_rgbAddr]
  omega

theorem targetOf_monoAddr (off : BitVec 7) : targetOf (monoAddr off) = .mono := by
  apply targetOf_of_monoRange
  rw [toNat_monoAddr]
  omega

/-- R52's comparisons leave no address to `unmapped` but those of R115's list. -/
theorem unmapped_of_targetOf {a : Offset} (h : targetOf a = .unmapped) : a.unmapped = true := by
  obtain ⟨-, -, -, -, hmap⟩ := addressMap a
  have hrange := hmap.mp h
  simp only [Offset.unmapped, Bool.or_eq_true, Bool.and_eq_true, decide_eq_true_eq]
  omega

/-- The offset of a start address in the RGB region names it (R84). -/
theorem rgbAddr_rgbOffset {a : Offset} (h : targetOf a = .rgb) : rgbAddr (rgbOffset a) = a := by
  obtain ⟨-, -, hmap, -, -⟩ := addressMap a
  have hrange := hmap.mp h
  apply BitVec.eq_of_toNat_eq
  rw [toNat_rgbAddr, rgbOffset, BitVec.toNat_setWidth, BitVec.toNat_sub, show (0x4000#16).toNat = 0x4000 from rfl]
  omega

/-- The offset of a start address in the monochrome region names it (R84). -/
theorem monoAddr_monoOffset {a : Offset} (h : targetOf a = .mono) : monoAddr (monoOffset a) = a := by
  obtain ⟨-, -, -, hmap, -⟩ := addressMap a
  have hrange := hmap.mp h
  apply BitVec.eq_of_toNat_eq
  rw [toNat_monoAddr, monoOffset, BitVec.toNat_setWidth, BitVec.toNat_sub, show (0x8000#16).toNat = 0x8000 from rfl]
  omega

/-! ### The command a target's start address names (R110, R130) -/

theorem readInstr_rgbAddr (size : Size) (off : BitVec 12) : readInstr size (rgbAddr off) = .readRgb size off := by
  simp only [readInstr, targetOf_rgbAddr, rgbOffset_rgbAddr]

theorem readInstr_monoAddr (size : Size) (off : BitVec 7) : readInstr size (monoAddr off) = .readMono size off := by
  simp only [readInstr, targetOf_monoAddr, monoOffset_monoAddr]

theorem readInstr_of_unmapped (size : Size) {a : Offset} (h : a.unmapped = true) :
    readInstr size a = .readUnmapped size a := by
  simp only [readInstr, targetOf_of_unmapped h]

theorem writeInstr_rgbAddr (size : Size) (off : BitVec 12) (v : Data) :
    writeInstr size (rgbAddr off) v = .writeRgb size off v := by
  simp only [writeInstr, targetOf_rgbAddr, rgbOffset_rgbAddr]

theorem writeInstr_monoAddr (size : Size) (off : BitVec 7) (v : Data) :
    writeInstr size (monoAddr off) v = .writeMono size off v := by
  simp only [writeInstr, targetOf_monoAddr, monoOffset_monoAddr]

theorem writeInstr_of_unmapped (size : Size) {a : Offset} (v : Data) (h : a.unmapped = true) :
    writeInstr size a v = .writeUnmapped size a v := by
  simp only [writeInstr, targetOf_of_unmapped h]

/-! ### Decoding an encoded command -/

theorem decode_pack_read (size : Size) (a : Offset) (v : Data) :
    decode ⟨pack 0b001#3 0#3 size.code a, v⟩ = .ok (readInstr size a) := by
  rw [decode_eq_decodeFields]
  simp [decodeFields, accessSize]

theorem decode_pack_write (size : Size) (a : Offset) (v : Data) :
    decode ⟨pack 0b010#3 0#3 size.code a, v⟩ = .ok (writeInstr size a v) := by
  rw [decode_eq_decodeFields]
  simp [decodeFields, accessSize]

/-- Row 17 of R89: the image is the write data, whatever its value. -/
theorem decode_restoreWord (image : Data) : decode ⟨pack 0b111#3 0#3 0#2 0#16, image⟩ = .ok (.restore image) := by
  rw [decode_eq_decodeFields]
  simp [decodeFields, bareInstr]

/-- Settles O1: the encoding of a READ or WRITE is the word of its target's start address, and that of every other
command its OP alone. -/
theorem decodeEncode : Obligations.DecodeEncode := by
  intro i hwf
  cases i with
  | readSegR size => exact decode_pack_read size 0x0010#16 0#64
  | readSegL size => exact decode_pack_read size 0x0011#16 0#64
  | readRgb size off => exact (decode_pack_read size _ _).trans (congrArg _ (readInstr_rgbAddr size off))
  | readMono size off => exact (decode_pack_read size _ _).trans (congrArg _ (readInstr_monoAddr size off))
  | readUnmapped size a => exact (decode_pack_read size _ _).trans (congrArg _ (readInstr_of_unmapped size hwf))
  | writeSegR size v => exact decode_pack_write size 0x0010#16 v
  | writeSegL size v => exact decode_pack_write size 0x0011#16 v
  | writeRgb size off v => exact (decode_pack_write size _ _).trans (congrArg _ (writeInstr_rgbAddr size off v))
  | writeMono size off v => exact (decode_pack_write size _ _).trans (congrArg _ (writeInstr_monoAddr size off v))
  | writeUnmapped size a v =>
    exact (decode_pack_write size _ _).trans (congrArg _ (writeInstr_of_unmapped size v hwf))
  | restore image => exact decode_restoreWord image
  | nop | reset | invalidate | frameDone | save => exact decode_of_bareWord rfl rfl rfl _

/-- Settles O6: each word and its write data are the encoding of the command they stand for. -/
theorem decodeWords : Obligations.DecodeWords :=
  ⟨decodeEncode .nop rfl, decodeEncode (.readSegR .h) rfl, decodeEncode (.readSegL .w) rfl,
    decodeEncode (.readRgb .d 0xFFD#12) rfl, decodeEncode (.readMono .b 0x7F#7) rfl,
    decodeEncode (.readUnmapped .d 0xFFFF#16) rfl, decodeEncode (.writeSegR .d 0x1122334455667788#64) rfl,
    decodeEncode (.writeRgb .d 0xFFD#12 0x0807060504030201#64) rfl, decodeEncode (.writeMono .h 0x7F#7 0xBEEF#64) rfl,
    decodeEncode .frameDone rfl, decodeEncode .save rfl, decodeEncode (.restore 0xCD00AB#64) rfl⟩

/-! ### Encoding a decoded command -/

/-- A READ as the decoder makes it is well formed, and its encoding has its width and start address. -/
theorem encode_readInstr (size : Size) (a : Offset) :
    (readInstr size a).wellFormed = true
      ∧ encode (readInstr size a) = ⟨pack 0b001#3 0#3 size.code a, 0#64⟩ := by
  obtain ⟨hsegR, hsegL, -, -, -⟩ := addressMap a
  unfold readInstr
  cases h : targetOf a with
  | segR => rw [show a = 0x0010#16 from BitVec.eq_of_toNat_eq (hsegR.mp h)]; exact ⟨rfl, rfl⟩
  | segL => rw [show a = 0x0011#16 from BitVec.eq_of_toNat_eq (hsegL.mp h)]; exact ⟨rfl, rfl⟩
  | rgb => exact ⟨rfl, congrArg (fun x => Command.mk (pack 0b001#3 0#3 size.code x) 0#64) (rgbAddr_rgbOffset h)⟩
  | mono => exact ⟨rfl, congrArg (fun x => Command.mk (pack 0b001#3 0#3 size.code x) 0#64) (monoAddr_monoOffset h)⟩
  | unmapped => exact ⟨unmapped_of_targetOf h, rfl⟩

/-- A WRITE as the decoder makes it is well formed, and its encoding has its width, start address and write data. -/
theorem encode_writeInstr (size : Size) (a : Offset) (v : Data) :
    (writeInstr size a v).wellFormed = true
      ∧ encode (writeInstr size a v) = ⟨pack 0b010#3 0#3 size.code a, v⟩ := by
  obtain ⟨hsegR, hsegL, -, -, -⟩ := addressMap a
  unfold writeInstr
  cases h : targetOf a with
  | segR => rw [show a = 0x0010#16 from BitVec.eq_of_toNat_eq (hsegR.mp h)]; exact ⟨rfl, rfl⟩
  | segL => rw [show a = 0x0011#16 from BitVec.eq_of_toNat_eq (hsegL.mp h)]; exact ⟨rfl, rfl⟩
  | rgb => exact ⟨rfl, congrArg (fun x => Command.mk (pack 0b010#3 0#3 size.code x) v) (rgbAddr_rgbOffset h)⟩
  | mono => exact ⟨rfl, congrArg (fun x => Command.mk (pack 0b010#3 0#3 size.code x) v) (monoAddr_monoOffset h)⟩
  | unmapped => exact ⟨unmapped_of_targetOf h, rfl⟩

/-- No READ takes its write data into the command (R87). -/
theorem usesWdata_readInstr (size : Size) (a : Offset) : (readInstr size a).usesWdata = false := by
  unfold readInstr
  cases targetOf a <;> rfl

/-- What the decoder makes of a word with RSV zero: a READ, a WRITE, or the command of an OP that takes no SIZE and no
ADDR, with the write data where the command uses it. -/
theorem decode_cases {c : Command} (hr : rsvField c.cmd = 0#3) :
    (opField c.cmd = 0b001#3 ∧ decode c = .ok (readInstr (accessSize c.cmd) (addrField c.cmd)))
      ∨ (opField c.cmd = 0b010#3 ∧ decode c = .ok (writeInstr (accessSize c.cmd) (addrField c.cmd) c.wdata))
      ∨ (bareOp (opField c.cmd) = true ∧ ∃ i : Instr, decode c = bareInstr c.cmd i ∧ i.wellFormed = true
          ∧ (encode i).cmd = pack (opField c.cmd) 0#3 0#2 0#16
          ∧ (i.usesWdata = true → (encode i).wdata = c.wdata)) := by
  rcases op_cases (opField c.cmd) with hop | hop | hop | hop | hop | hop | hop | hop
  case inr.inl => exact .inl ⟨hop, decode_of_readOp hop hr⟩
  case inr.inr.inl => exact .inr (.inl ⟨hop, decode_of_writeOp hop hr⟩)
  all_goals
    refine .inr (.inr ⟨by rw [hop]; rfl, ?_⟩)
    simp only [decode_eq_decodeFields, decodeFields, hr, hop, ne_eq, not_true_eq_false, if_false, if_true,
      BitVec.reduceEq]
    exact ⟨_, rfl, rfl, rfl, by simp [Instr.usesWdata, encode, Instr.writeData]⟩

/-- Settles O2: the fields of the word are those of the encoding in each of the three cases, and they make up the
word. -/
theorem encodeDecode : Obligations.EncodeDecode := by
  intro c i hd
  have hr : rsvField c.cmd = 0#3 := by
    by_contra hne
    rw [decode_of_reserved hne] at hd
    cases hd
  have hword := pack_fields c.cmd
  rcases decode_cases hr with ⟨hop, hread⟩ | ⟨hop, hwrite⟩ | ⟨-, j, hbare, hwf, hcmd, hdata⟩
  · obtain rfl := Except.ok.inj (hd.symm.trans hread)
    obtain ⟨hwf, henc⟩ := encode_readInstr (accessSize c.cmd) (addrField c.cmd)
    rw [accessSize, Size.code_ofCode, ← hop, ← hr, hword] at henc
    exact ⟨hwf, by rw [accessSize, henc], fun huses => absurd huses (by rw [usesWdata_readInstr]; decide)⟩
  · obtain rfl := Except.ok.inj (hd.symm.trans hwrite)
    obtain ⟨hwf, henc⟩ := encode_writeInstr (accessSize c.cmd) (addrField c.cmd) c.wdata
    rw [accessSize, Size.code_ofCode, ← hop, ← hr, hword] at henc
    exact ⟨hwf, by rw [accessSize, henc], fun _ => by rw [accessSize, henc]⟩
  · rw [hbare, bareInstr] at hd
    split_ifs at hd with hzero
    obtain ⟨hsize, haddr⟩ := hzero
    obtain rfl := Except.ok.inj hd
    exact ⟨hwf, by rw [hcmd, ← hr, ← hsize, ← haddr, hword], hdata⟩

/-! ### The region rows (R89) -/

theorem rgbRow_iff (cmd : CmdWord) (op : BitVec 3) : cmd &&& 0xFCF000#24 = pack op 0#3 0#2 0x4000#16 ↔
    opField cmd = op ∧ rsvField cmd = 0#3 ∧ 0x4000 ≤ (addrField cmd).toNat ∧ (addrField cmd).toNat ≤ 0x4FFF := by
  rw [rgb_mask_iff, and_rgbMask_iff, Nat.lt_succ_iff]

theorem monoRow_iff (cmd : CmdWord) (op : BitVec 3) : cmd &&& 0xFCFF80#24 = pack op 0#3 0#2 0x8000#16 ↔
    opField cmd = op ∧ rsvField cmd = 0#3 ∧ 0x8000 ≤ (addrField cmd).toNat ∧ (addrField cmd).toNat ≤ 0x807F := by
  rw [mono_mask_iff, and_monoMask_iff, Nat.lt_succ_iff]

/-- A word that decodes to a command stands in the command's row. -/
theorem row_of_decodeWord {cmd : CmdWord} {v : Data} {i : Instr} (hrow : Laws.EncodedRow.Statement i)
    (hd : decodeWord cmd v = .ok i) : cmd &&& i.rowMask = i.rowMatch := by
  obtain ⟨-, hcmd, -⟩ := encodeDecode ⟨cmd, v⟩ i hd
  rwa [Laws.EncodedRow.Statement, hcmd] at hrow

/-- Settles O4: a word in a region row decodes to that row's command, and the word of such a command stands in its
row. -/
theorem masksExactForRanges : Obligations.MasksExactForRanges := by
  intro cmd v
  have hreadRgb := rgbRow_iff cmd 0b001#3
  have hreadMono := monoRow_iff cmd 0b001#3
  have hwriteRgb := rgbRow_iff cmd 0b010#3
  have hwriteMono := monoRow_iff cmd 0b010#3
  refine ⟨fun _ _ => hreadRgb, fun _ _ => hreadMono, fun _ _ => hwriteRgb, fun _ _ => hwriteMono,
    ⟨fun ⟨size, off, hd⟩ => hreadRgb.mp (row_of_decodeWord (Laws.EncodedRow.readRgb size off) hd),
      fun h => ⟨_, _, decode_of_readRgbRow (c := ⟨cmd, v⟩) (hreadRgb.mpr h)⟩⟩,
    ⟨fun ⟨size, off, hd⟩ => hreadMono.mp (row_of_decodeWord (Laws.EncodedRow.readMono size off) hd),
      fun h => ⟨_, _, decode_of_readMonoRow (c := ⟨cmd, v⟩) (hreadMono.mpr h)⟩⟩,
    ⟨fun ⟨size, off, hd⟩ => hwriteRgb.mp (row_of_decodeWord (Laws.EncodedRow.writeRgb size off v) hd),
      fun h => ⟨_, _, decode_of_writeRgbRow (c := ⟨cmd, v⟩) (hwriteRgb.mpr h)⟩⟩,
    ⟨fun ⟨size, off, hd⟩ => hwriteMono.mp (row_of_decodeWord (Laws.EncodedRow.writeMono size off v) hd),
      fun h => ⟨_, _, decode_of_writeMonoRow (c := ⟨cmd, v⟩) (hwriteMono.mpr h)⟩⟩⟩

/-! ### Assembled lines (R92) -/

/-- A word with RSV zero as the assembler puts it together: OP, SIZE and ADDR shifted to their places. -/
theorem pack_eq_or (op : BitVec 3) (size : BitVec 2) (a : Offset) :
    pack op 0#3 size a = op.setWidth 24 <<< 21 ||| size.setWidth 24 <<< 16 ||| a.setWidth 24 := by
  apply BitVec.eq_of_getLsbD_eq
  intro j hj
  simp only [getLsbD_pack, BitVec.getLsbD_or, BitVec.getLsbD_shiftLeft, BitVec.getLsbD_setWidth]
  by_cases haddr : j < 16
  · simp [haddr, hj, show j < 21 by omega]
  by_cases hsize : j < 18
  · simp [haddr, hsize, hj, show j < 21 by omega, show j - 16 < 24 by omega, BitVec.getLsbD_of_ge a j (by omega)]
  have haddr0 := BitVec.getLsbD_of_ge a j (by omega)
  have hsize0 := BitVec.getLsbD_of_ge size (j - 16) (by omega)
  by_cases hrsv : j < 21
  · simp [haddr, hsize, hrsv, hj, haddr0, hsize0]
  · simp [haddr, hsize, hrsv, hj, haddr0, hsize0, show j - 21 < 24 by omega]

theorem asmAddr_eq_some {a : Nat} {x : Offset} : asmAddr a = some x ↔ a ≤ 0xFFFF ∧ BitVec.ofNat 16 a = x := by
  simp [asmAddr, Nat.lt_succ_iff]

theorem asmValue_eq_some {v : Nat} {x : Data} : asmValue v = some x ↔ v < 2 ^ 64 ∧ BitVec.ofNat 64 v = x := by
  simp [asmValue]

/-- A RD line assembles to the word of a READ, exactly at the addresses that fit the field. -/
theorem assemble_rd_eq_some {size : Size} {a : Nat} {c : Command} : assemble (.rd size a) = some c ↔
    a ≤ 0xFFFF ∧ ⟨pack 0b001#3 0#3 size.code (BitVec.ofNat 16 a), 0#64⟩ = c := by
  rw [pack_eq_or]
  simp [assemble, Option.bind_eq_some_iff, asmAddr_eq_some]

/-- A WR line assembles to the word of a WRITE with its value, exactly where both operands fit. -/
theorem assemble_wr_eq_some {size : Size} {a v : Nat} {c : Command} : assemble (.wr size a v) = some c ↔
    a ≤ 0xFFFF ∧ v < 2 ^ 64 ∧ ⟨pack 0b010#3 0#3 size.code (BitVec.ofNat 16 a), BitVec.ofNat 64 v⟩ = c := by
  rw [pack_eq_or]
  simp [assemble, Option.bind_eq_some_iff, asmAddr_eq_some, asmValue_eq_some]

/-- A RESTORE line assembles to row 17 with its value as the image, exactly where it fits. -/
theorem assemble_restore_eq_some {v : Nat} {c : Command} : assemble (.restore v) = some c ↔
    v < 2 ^ 64 ∧ ⟨pack 0b111#3 0#3 0#2 0#16, BitVec.ofNat 64 v⟩ = c := by
  rw [pack_eq_or]
  simp [assemble, Option.bind_eq_some_iff, asmValue_eq_some]

/-- Settles O10: each line assembles to the word that encodes its command, where its operands fit. -/
theorem assembledLineDecodes : Obligations.AssembledLineDecodes := by
  refine ⟨fun l c h => ?decodes, fun size a => ?rd, fun size a v hv => ?wr⟩
  case decodes =>
    cases l with
    | rd size a =>
      obtain ⟨-, rfl⟩ := assemble_rd_eq_some.mp h
      exact decode_pack_read size _ _
    | wr size a v =>
      obtain ⟨-, -, rfl⟩ := assemble_wr_eq_some.mp h
      exact decode_pack_write size _ _
    | restore v =>
      obtain ⟨-, rfl⟩ := assemble_restore_eq_some.mp h
      exact decode_restoreWord _
    | nop | reset | inval | fdone | save =>
      obtain rfl := Option.some.inj h
      apply decode_of_bareWord <;> rfl
  case rd => simp [assemble_rd_eq_some]
  case wr => simp only [assemble_wr_eq_some, hv, true_and, exists_and_left, exists_eq', and_true]

end Sys2Proof.Proofs

/-! PROOF. The statements of 60_exceptions.md: one step (R8, R80), what it refuses and what it serves (R190 to R193),
with the initialised flag of 10_state.md (R36) and what RDATA can show (R31, R88). -/

namespace Sys2Proof.Proofs

open Sys2Proof.Machine

/-! ### One step (R8, R64, R80) -/

/-- Settles O11: an unmarked block takes the oldest event from the port and performs what its word decodes to. -/
theorem stepRunsDecodedCommand : Obligations.StepRunsDecodedCommand := by
  intro s c rest i hm hp hd
  rw [step_of_event hm hp, accept, hd]
  rfl

/-- A table word decodes as the command it stands for does. -/
theorem decode_of_decodeTableWord {nbits w : Nat} {i : Instr} (h : decodeTableWord nbits w = some i) :
    decode (commandOfTableWord nbits w) = .ok i := by
  unfold decodeTableWord at h
  split at h
  · rename_i hd
    rw [hd, Option.some.inj h]
  · cases h

/-- Settles O12: the placed word is the oldest event, and taking it from the port leaves the state before it. -/
theorem stepRunsPlacedWord : Obligations.StepRunsPlacedWord := fun s w i hm hw =>
  stepRunsDecodedCommand (s.withFetchWord 24 w) (commandOfTableWord 24 w) s.pending i hm rfl
    (decode_of_decodeTableWord hw)

/-- Settles O13: a step that finds no event is read as a NOP. -/
theorem idleStepIsNop : Obligations.IdleStepIsNop := fun _ hm hp => step_of_idle hm hp

/-- Settles O16: the port performs no such event, whatever the state. -/
theorem outsideInterfaceRefused : Obligations.OutsideInterfaceRefused := fun _ _ hm =>
  ⟨fun _ _ _ hp => step_of_event hm hp, fun _ hp => step_of_event hm hp⟩

/-- Row 13 of R89. -/
theorem decode_resetWord (v : Data) : decode ⟨0x600000#24, v⟩ = .ok .reset := by
  obtain ⟨hword, -⟩ := resetCommand
  exact hword v

/-- Settles O20: RESET is served before the first RESET, and keeps of the block before it only the events to come and
the refusal mark, of which power-on has none. -/
theorem bootReachesResetState : Obligations.BootReachesResetState := by
  intro es
  rw [stepRunsDecodedCommand (State.powerOn _) _ es .reset rfl rfl (decode_resetWord _), exec_reset, effect_reset]
  rfl

/-! ### What a command word says of its command (R82, R86) -/

/-- The command a word decodes to has the word's OP. -/
theorem op_of_decode {c : Command} {i : Instr} (hd : decode c = .ok i) : i.op = opField c.cmd := by
  obtain ⟨-, hcmd, -⟩ := encodeDecode c i hd
  rw [← hcmd]
  exact (opField_pack ..).symm

theorem op_eq_reset_iff (i : Instr) : i.op = 0b011#3 ↔ i = .reset := by
  cases i <;> simp [Instr.op]

/-- Of the operations, RESTORE alone has an image to check, its write data (R155). -/
theorem imageAccepted_of_decode {c : Command} {i : Instr} (hd : decode c = .ok i) :
    imageAccepted i = false ↔ opField c.cmd = 0b111#3 ∧ imageInRange c.wdata = false := by
  obtain ⟨-, -, hdata⟩ := encodeDecode c i hd
  rw [← op_of_decode hd]
  cases i with
  | restore image =>
    rw [← hdata rfl]
    exact (and_iff_right rfl).symm
  | _ => simp [imageAccepted, Instr.op]

/-! ### The table of R192 -/

/-- Exactly the words without a meaning are illegal: RSV not 000, or an operand on a command that takes none (R90). -/
theorem illegalWord_eq_false_iff (c : Command) : illegalWord c.cmd = false ↔ ∃ i, decode c = .ok i := by
  by_cases hr : rsvField c.cmd = 0#3
  case neg => simp [illegalWord, hr, decode_of_reserved hr]
  rcases decode_cases hr with ⟨hop, hread⟩ | ⟨hop, hwrite⟩ | ⟨hbare, i, hdecode, -⟩
  · simp [illegalWord, hr, bareOp, hop, hread]
  · simp [illegalWord, hr, bareOp, hop, hwrite]
  · rw [hdecode, bareInstr]
    by_cases hzero : sizeField c.cmd = 0#2 ∧ addrField c.cmd = 0#16
    · simp [illegalWord, hr, hzero]
    · simp [illegalWord, hr, hbare, hzero]

/-- What the table says of a word with a meaning, in terms of its command. -/
theorem refusalOf_of_decode {c : Command} {i : Instr} (hd : decode c = .ok i) (initialised : Bool) :
    refusalOf initialised (.command c)
      = if initialised = false ∧ i ≠ .reset then some .uninitialised
        else if imageAccepted i = false then some .restoreRange else none := by
  have hlegal := (illegalWord_eq_false_iff c).mpr ⟨i, hd⟩
  simp [refusalOf, hlegal, ← op_of_decode hd, op_eq_reset_iff, imageAccepted_of_decode hd]

/-- The port refuses an event by the reason the table names, and performs it where the table names none. -/
theorem accept_cases (e : PortEvent) (s : State) :
    (∃ r, accept e s = .refused r ∧ refusalOf s.initialised e = some r)
      ∨ ∃ t, accept e s = .next t ∧ refusalOf s.initialised e = none := by
  cases e with
  | commands c c' more => exact .inl ⟨.concurrent, rfl, rfl⟩
  | fetch a => exact .inl ⟨.fetch, rfl, rfl⟩
  | command c =>
    cases hd : decode c with
    | error err =>
      have hillegal : illegalWord c.cmd = true := by
        rw [← Bool.not_eq_false, illegalWord_eq_false_iff]
        simp [hd]
      exact .inl ⟨.reserved, by rw [accept, hd], if_pos hillegal⟩
    | ok i =>
      rw [refusalOf_of_decode hd, accept, hd]
      rcases exec_cases i s with ⟨hexec, hallowed, himage⟩ | ⟨hexec, hreset, hs⟩ | ⟨hexec, hs, himage, -⟩
      · refine .inr ⟨effect i s, hexec, ?_⟩
        rcases hallowed with hreset | hs
        · simp [hreset, imageAccepted]
        · simp [hs, himage]
      · exact .inl ⟨.uninitialised, hexec, if_pos ⟨hs, hreset⟩⟩
      · exact .inl ⟨.restoreRange, hexec, by simp [hs, himage]⟩

/-- Settles O14: the step hands the event to the port, with the initialised flag as it was. -/
theorem stepRefusesByTable : Obligations.StepRefusesByTable := by
  intro s e rest hm hp
  rw [step_of_event hm hp]
  rcases accept_cases e (s.takeEvent rest) with ⟨r, haccept, htable⟩ | ⟨t, haccept, htable⟩
  · rw [State.takeEvent_initialised] at htable
    simp [haccept, htable]
  · rw [State.takeEvent_initialised] at htable
    simp [haccept, htable]

/-! ### After a refusal (R36, R192) -/

/-- A block that holds the mark stands still: the refusal it settles is the one it holds. -/
theorem settledRun_afterRefusal (s : State) (r : Refusal) (n : Nat) :
    settledRun n (s.afterRefusal r) = s.afterRefusal r := by
  induction n with
  | zero => rfl
  | succ n ih => rw [settledRun, step_of_mark (State.afterRefusal_refusedMark s r), settle_refused]; exact ih

/-- Settles O15: the refused step leaves the mark, and a marked block refuses with the reason of its mark. -/
theorem refusalIsFinal : Obligations.RefusalIsFinal := by
  intro s r h
  rw [h, settle_refused]
  refine ⟨rfl, fun n => ?_⟩
  rw [settledRun_afterRefusal]
  exact ⟨rfl, step_of_mark (State.afterRefusal_refusedMark s r)⟩

/-! ### What an initialised block serves (R190) -/

/-- Settles O50: the image is the only operand a command is refused for. -/
theorem everyCommandServed : Obligations.EveryCommandServed := by
  intro i s hs himage
  refine ⟨effect i s, exec_of_initialised hs ?_⟩
  cases i with
  | restore image => exact himage image rfl
  | _ => rfl

/-! ### The initialised flag (R36) -/

/-- A performed command leaves the block initialised: RESET does, and no other command clears the flag. -/
theorem initialised_of_exec_next {i : Instr} {s t : State} (h : exec i s = .next t) : t.initialised = true := by
  obtain ⟨rfl, hreset | hs, -⟩ := exec_next h
  · rw [hreset]; rfl
  · exact effect_initialised hs

/-- Settles O54: before the first RESET a step performs RESET or nothing, and RESET has one word. -/
theorem initialisedByResetOnly : Obligations.InitialisedByResetOnly := by
  intro s t h
  obtain ⟨hm, i, u, hexec, hport⟩ := step_next h
  refine ⟨initialised_of_exec_next hexec, fun hs => ?_⟩
  obtain ⟨rfl, hallowed, -⟩ := exec_next hexec
  rcases hport with ⟨-, rfl, rfl⟩ | ⟨c, rest, hp, hd, rfl⟩
  · simp [hs] at hallowed
  · obtain rfl : i = .reset := by simpa [hs] using hallowed
    obtain ⟨-, hcmd, -⟩ := encodeDecode c .reset hd
    refine ⟨c, rest, hp, hcmd.symm, ?_⟩
    rw [effect_reset, State.takeEvent_refusedMark, hm]
    rfl

/-! ### The flags and the old read data (R31, R88) -/

/-- The command that is performed has its effect. -/
theorem exec_of_allowed {i : Instr} {s : State} (h : i = .reset ∨ s.initialised = true)
    (himage : imageAccepted i = true) : exec i s = .next (effect i s) := by
  rcases h with rfl | hs
  · exact exec_reset s
  · exact exec_of_initialised hs himage

/-- No command reads the flags or RDATA: of its effect they reach the flags alone. -/
theorem effect_ignores_flags_rdata (i : Instr) (s : State) (bg disp : Bool) (v : Data) :
    { effect i { s with dirtyBg := bg, dirtyDisp := disp, rdata := v } with
        dirtyBg := (effect i s).dirtyBg, dirtyDisp := (effect i s).dirtyDisp } = effect i s := by
  cases i with
  | readSegR size | readSegL size | writeSegR size | writeSegL size => cases size <;> rfl
  | _ => rfl

/-- Settles O55: the other block performs the same command, with the same effect but for the flags. -/
theorem flagsNotReadableOnBus : Obligations.FlagsNotReadableOnBus := by
  intro s t bg disp v h
  obtain ⟨hm, i, u, hexec, hport⟩ := step_next h
  obtain ⟨rfl, hallowed, himage⟩ := exec_next hexec
  refine ⟨effect i { u with dirtyBg := bg, dirtyDisp := disp, rdata := v }, ?_,
    effect_ignores_flags_rdata i u bg disp v⟩
  refine Eq.trans ?_ (exec_of_allowed hallowed himage)
  rcases hport with ⟨hp, rfl, rfl⟩ | ⟨c, rest, hp, hd, rfl⟩
  · exact step_of_idle hm hp
  · exact stepRunsDecodedCommand _ c rest i hm hp hd

end Sys2Proof.Proofs

/-! PROOF. The statements of 20_memory.md and 42_control.md on the buffers: the invariant (R57, R58), what RESTORE leaves
(R211), and a READ after a WRITE to overlapping bytes (R64). -/

namespace Sys2Proof.Proofs

open Sys2Proof.Machine

/-! ### What a command does to a buffer (R57, R58) -/

/-- `m'` is `m` after a region write of some number of bytes, none among them, that ends below the last byte of an
allocation of `alloc` bytes. -/
def StoredBelowLast (alloc : Nat) (m m' : Memory) : Prop :=
  ∃ (off n : Nat) (v : Data), off + n < alloc ∧ m' = regionWrite m off v n

section StoredBelowLast

variable {alloc : Nat} {m m' : Memory}

theorem StoredBelowLast.refl (h : 0 < alloc) (m : Memory) : StoredBelowLast alloc m m :=
  ⟨0, 0, 0#64, h, rfl⟩

theorem StoredBelowLast.wf (h : StoredBelowLast alloc m m') (hm : m.wf = true) : m'.wf = true := by
  obtain ⟨off, n, v, -, rfl⟩ := h
  exact wf_regionWrite hm off v n

theorem StoredBelowLast.within (h : StoredBelowLast alloc m m') (hm : m.within alloc = true) :
    m'.within alloc = true := by
  obtain ⟨off, n, v, hend, rfl⟩ := h
  exact within_regionWrite v (Nat.le_of_lt hend) hm

theorem StoredBelowLast.read_last (h : StoredBelowLast alloc m m') (hm : m.wf = true) :
    m'.read (alloc - 1) = m.read (alloc - 1) := by
  obtain ⟨off, n, v, hend, rfl⟩ := h
  rw [read_regionWrite hm, if_neg (by omega)]

end StoredBelowLast

/-- RESET and RESTORE zero both buffers; every other command stores below the last byte of each, if it stores. -/
theorem effect_buffers (i : Instr) (s : State) :
    ((i.op = 0b011#3 ∨ i.op = 0b111#3) ∧ (effect i s).rgb = Memory.zeroed ∧ (effect i s).mono = Memory.zeroed)
      ∨ (¬ (i.op = 0b011#3 ∨ i.op = 0b111#3) ∧ StoredBelowLast Config.rgbAlloc s.rgb (effect i s).rgb
          ∧ StoredBelowLast Config.monoAlloc s.mono (effect i s).mono) := by
  have hrgb := StoredBelowLast.refl (alloc := Config.rgbAlloc) (by decide) s.rgb
  have hmono := StoredBelowLast.refl (alloc := Config.monoAlloc) (by decide) s.mono
  cases i with
  | reset | restore => exact .inl ⟨by simp [Instr.op], rfl, rfl⟩
  | writeRgb size off v =>
    have hend : off.toNat + size.bytes < Config.rgbAlloc := by
      have hoff := off.isLt
      have hsize := size.bytes_le
      rw [show Config.rgbAlloc = 4104 from rfl]
      omega
    exact .inr ⟨by simp [Instr.op], ⟨off.toNat, size.bytes, v, hend, rfl⟩, hmono⟩
  | writeMono size off v =>
    have hend : off.toNat + size.bytes < Config.monoAlloc := by
      have hoff := off.isLt
      have hsize := size.bytes_le
      rw [show Config.monoAlloc = 136 from rfl]
      omega
    exact .inr ⟨by simp [Instr.op], hrgb, ⟨off.toNat, size.bytes, v, hend, rfl⟩⟩
  | writeSegR size | writeSegL size =>
    refine .inr ⟨by simp [Instr.op], ?_⟩
    cases size <;> exact ⟨hrgb, hmono⟩
  | nop | readSegR | readSegL | readRgb | readMono | readUnmapped | writeUnmapped | invalidate | frameDone | save =>
    exact .inr ⟨by simp [Instr.op], hrgb, hmono⟩

/-- Settles O40: a store keeps the last byte, and a zeroed buffer reads zero there. -/
theorem lastByteOutOfReach : Obligations.LastByteOutOfReach := by
  intro i s t hrgb hmono h
  obtain ⟨rfl, -, -⟩ := exec_next h
  rcases effect_buffers i s with ⟨hop, hrgb0, hmono0⟩ | ⟨hop, hrgbStored, hmonoStored⟩
  · exact ⟨fun hreset hrestore => absurd hop (not_or.mpr ⟨hreset, hrestore⟩),
      fun _ => by rw [hrgb0, hmono0]; exact ⟨rfl, rfl⟩⟩
  · exact ⟨fun _ _ => ⟨hrgbStored.read_last hrgb, hmonoStored.read_last hmono⟩,
      fun hclears => absurd hclears hop⟩

/-! ### The invariant (R57, R58) -/

/-- Zeroed buffers meet the invariant, whatever the rest of the state. -/
theorem inv_of_zeroed {s : State} (hrgb : s.rgb = Memory.zeroed) (hmono : s.mono = Memory.zeroed) : s.Inv where
  rgb_wf := by rw [hrgb]; exact Memory.wf_zeroed
  mono_wf := by rw [hmono]; exact Memory.wf_zeroed
  rgb_within := by rw [hrgb]; exact Memory.within_zeroed _
  mono_within := by rw [hmono]; exact Memory.within_zeroed _
  rgb_last _ := by rw [hrgb]; rfl
  mono_last _ := by rw [hmono]; rfl

/-- Stores below the last bytes keep the invariant of an initialised block. -/
theorem inv_of_storedBelowLast {s t : State} (hs : s.Inv) (hinit : s.initialised = true)
    (hrgb : StoredBelowLast Config.rgbAlloc s.rgb t.rgb) (hmono : StoredBelowLast Config.monoAlloc s.mono t.mono) :
    t.Inv where
  rgb_wf := hrgb.wf hs.rgb_wf
  mono_wf := hmono.wf hs.mono_wf
  rgb_within := hrgb.within hs.rgb_within
  mono_within := hmono.within hs.mono_within
  rgb_last _ := (hrgb.read_last hs.rgb_wf).trans (hs.rgb_last hinit)
  mono_last _ := (hmono.read_last hs.mono_wf).trans (hs.mono_last hinit)

/-- Every performed command keeps the invariant. -/
theorem inv_of_exec_next {i : Instr} {s t : State} (hs : s.Inv) (h : exec i s = .next t) : t.Inv := by
  obtain ⟨rfl, hallowed, -⟩ := exec_next h
  rcases effect_buffers i s with ⟨-, hrgb, hmono⟩ | ⟨hop, hrgb, hmono⟩
  · exact inv_of_zeroed hrgb hmono
  · rcases hallowed with rfl | hinit
    · exact absurd (.inl rfl) hop
    · exact inv_of_storedBelowLast hs hinit hrgb hmono

/-- The events to come are no part of the invariant. -/
theorem inv_takeEvent {s : State} (hs : s.Inv) (rest : List PortEvent) : (s.takeEvent rest).Inv :=
  ⟨hs.rgb_wf, hs.mono_wf, hs.rgb_within, hs.mono_within, hs.rgb_last, hs.mono_last⟩

/-- Settles O51: a step that answers a next state performs one command. -/
theorem stepKeepsInv : Obligations.StepKeepsInv := by
  intro s t hs h
  obtain ⟨-, i, u, hexec, ⟨-, -, rfl⟩ | ⟨c, rest, -, -, rfl⟩⟩ := step_next h
  · exact inv_of_exec_next hs hexec
  · exact inv_of_exec_next (inv_takeEvent hs rest) hexec

/-- Settles O52: ResetState holds zeroed buffers. -/
theorem resetInv : Obligations.ResetInv := inv_of_zeroed rfl rfl

/-- Settles O53: the free bytes are written one by one inside the allocation, and no RESET has been performed. -/
theorem powerOnInv : Obligations.PowerOnInv := fun _ =>
  { rgb_wf := Memory.wf_ofBytes _ _
    mono_wf := Memory.wf_ofBytes _ _
    rgb_within := Memory.within_ofBytes _ _
    mono_within := Memory.within_ofBytes _ _
    rgb_last := nofun
    mono_last := nofun }

/-! ### RESTORE (R211) -/

/-- Settles O48: an accepted RESTORE finds the block initialised, as ResetState has it. -/
theorem restoreLeavesResetState : Obligations.RestoreLeavesResetState := by
  intro image s t h
  obtain ⟨rfl, hallowed, -⟩ := exec_next h
  have hs : s.initialised = true := by simpa using hallowed
  rw [effect_restore, hs]
  rfl

/-! ### A READ after a WRITE to overlapping bytes (R64) -/

/-- Byte i of a region read after a region write: a byte of v where the two overlap, the old byte elsewhere. -/
theorem byteOf_regionRead_regionWrite {m : Memory} (hm : m.wf = true) (off off' : Nat) (v : Data) (n : Nat)
    (size' : Size) {i : Nat} (hi : i < size'.bytes) :
    byteOf (regionRead (regionWrite m off v n) off' size'.bytes) i
      = if off ≤ off' + i ∧ off' + i < off + n then byteOf v (off' + i - off) else m.read (off' + i) := by
  rw [byteOf_regionRead _ _ _ _ (Nat.lt_of_lt_of_le hi size'.bytes_le), if_pos hi, read_regionWrite hm]

/-- Byte 0 of a READ at 0x0010 is SEG_R (R111). -/
theorem byteOf_segRValue_zero (size : Size) (s : State) : byteOf (segRValue size s) 0 = s.segR := by
  have hpos := size.bytes_pos
  apply BitVec.eq_of_getLsbD_eq
  intro j hj
  rw [byteOf_getLsbD, segRValue_getLsbD]
  simp [hj, show j < 8 * size.bytes by omega]

/-- Byte 1 of a READ at 0x0010 is SEG_L where the width reaches it (R111). -/
theorem byteOf_segRValue_one {size : Size} (hsize : 2 ≤ size.bytes) (s : State) :
    byteOf (segRValue size s) 1 = s.segL := by
  apply BitVec.eq_of_getLsbD_eq
  intro j hj
  rw [byteOf_getLsbD, segRValue_getLsbD]
  simp [hj, show 8 + j < 8 * size.bytes by omega]

/-- Byte 0 of a READ at 0x0011 is SEG_L (R112). -/
theorem byteOf_segLValue_zero (size : Size) (s : State) : byteOf (segLValue size s) 0 = s.segL := by
  rw [segLValue_eq]
  apply BitVec.eq_of_getLsbD_eq
  intro j hj
  rw [byteOf_getLsbD, BitVec.getLsbD_setWidth]
  simp [hj, show j < 64 by omega]

/-- SEG_L after a WRITE at 0x0010, by the width in bytes (R131). -/
theorem storeSegR_segL_of_bytes (size : Size) (v : Data) (s : State) :
    (s.storeSegR size v).segL = if 2 ≤ size.bytes then byteOf v 1 else s.segL := by
  cases size <;> rfl

/-- An initialised block performs two commands one after the other, where neither has an image to check. -/
theorem exec_then_exec {i j : Instr} {s : State} (hs : s.initialised = true) (hi : imageAccepted i = true)
    (hj : imageAccepted j = true) :
    exec i s = .next (effect i s) ∧ exec j (effect i s) = .next (effect j (effect i s)) :=
  ⟨exec_of_initialised hs hi, exec_of_initialised (effect_initialised hs) hj⟩

/-- Settles O38: in a region byte by byte, and of the segment registers each byte a READ can drive. -/
theorem overlappingReadAfterWrite : Obligations.OverlappingReadAfterWrite := by
  intro size size' v s hs
  refine ⟨fun hm off off' => ?rgb, fun hm off off' => ?mono, ?segR, ?segL⟩
  case rgb =>
    obtain ⟨hwrite, hread⟩ := exec_then_exec (i := .writeRgb size off v) (j := .readRgb size' off') hs rfl rfl
    exact ⟨_, _, hwrite, hread, fun i hi => byteOf_regionRead_regionWrite hm _ _ v _ size' hi⟩
  case mono =>
    obtain ⟨hwrite, hread⟩ := exec_then_exec (i := .writeMono size off v) (j := .readMono size' off') hs rfl rfl
    exact ⟨_, _, hwrite, hread, fun i hi => byteOf_regionRead_regionWrite hm _ _ v _ size' hi⟩
  case segR =>
    obtain ⟨hwrite, hreadR⟩ := exec_then_exec (i := .writeSegR size v) (j := .readSegR size') hs rfl rfl
    obtain ⟨-, hreadL⟩ := exec_then_exec (i := .writeSegR size v) (j := .readSegL size') hs rfl rfl
    exact ⟨_, _, _, hwrite, hreadR, hreadL,
      (byteOf_segRValue_zero size' _).trans (State.storeSegR_segR s size v),
      fun hsize' => (byteOf_segRValue_one hsize' _).trans (storeSegR_segL_of_bytes size v s),
      (byteOf_segLValue_zero size' _).trans (storeSegR_segL_of_bytes size v s)⟩
  case segL =>
    obtain ⟨hwrite, hreadR⟩ := exec_then_exec (i := .writeSegL size v) (j := .readSegR size') hs rfl rfl
    obtain ⟨-, hreadL⟩ := exec_then_exec (i := .writeSegL size v) (j := .readSegL size') hs rfl rfl
    exact ⟨_, _, _, hwrite, hreadR, hreadL,
      (byteOf_segRValue_zero size' _).trans (State.storeSegL_segR s size v),
      fun hsize' => (byteOf_segRValue_one hsize' _).trans (State.storeSegL_segL s size v),
      (byteOf_segLValue_zero size' _).trans (State.storeSegL_segL s size v)⟩

end Sys2Proof.Proofs

/-! PROOF. The statements of 43_display_port.md and 70_reset_and_hazards.md on what the port does not show: the guard
words (R175, R178), and a change whose flag FRAME_DONE has cleared (R214). -/

namespace Sys2Proof.Proofs

open Sys2Proof.Machine

/-! ### The guard words (R175, R178) -/

/-- Settles O57: the words exported are those of the bytes below the guard words. -/
theorem displayIgnoresGuardWords : Obligations.DisplayIgnoresGuardWords := by
  intro s s' hinit hsegR hsegL hbg hdisp hrgb hmono
  have hpix : ∀ i : Fin 1024, s.rgbWord i.val = s'.rgbWord i.val := fun i =>
    wordAt_congr fun j hj => hrgb _ (by omega)
  have hrow : ∀ r : Fin 32, s.monoWord r.val = s'.monoWord r.val := fun r =>
    wordAt_congr fun j hj => hmono _ (by omega)
  simp only [displayPort, exported, hinit, hsegR, hsegL, hbg, hdisp, hpix, hrow]

/-! ### What a WRITE shows (R171 to R173) -/

/-- Byte k of an exported buffer is byte k % 4 of its word k / 4 (R53). -/
theorem byte_wordAt (m : Memory) (k : Nat) : (wordAt m (k / 4)).extractLsb' (8 * (k % 4)) 8 = m.read k := by
  rw [wordAt_byte m _ _ (Nat.mod_lt k (by decide)), Nat.div_add_mod]

section StoredBytes

variable {a : Offset} {s : State} (size : Size) (v : Data)

theorem storeAt_segR_of_segR (h : targetOf a = .segR) : (storeAt size a v s).segR = byteOf v 0 := by
  simp only [storeAt, h]
  exact State.storeSegR_segR s size v

theorem storeAt_segL_of_segR (h : targetOf a = .segR) (hsize : 2 ≤ size.bytes) :
    (storeAt size a v s).segL = byteOf v 1 := by
  simp only [storeAt, h]
  rw [storeSegR_segL_of_bytes, if_pos hsize]

theorem storeAt_segL_of_segL (h : targetOf a = .segL) : (storeAt size a v s).segL = byteOf v 0 := by
  simp only [storeAt, h]
  exact State.storeSegL_segL s size v

/-- A byte of the span a WRITE in the RGB region covers, as the port shows it (R133, R172). -/
theorem rgbWord_byte_storeAt (h : targetOf a = .rgb) (hm : s.rgb.wf = true) {k : Nat}
    (hlow : (rgbOffset a).toNat ≤ k) (hhigh : k < (rgbOffset a).toNat + size.bytes) :
    ((storeAt size a v s).rgbWord (k / 4)).extractLsb' (8 * (k % 4)) 8 = byteOf v (k - (rgbOffset a).toNat) := by
  simp only [storeAt, h]
  rw [State.rgbWord, byte_wordAt, State.setRgb_rgb, read_regionWrite hm, if_pos ⟨hlow, hhigh⟩]

/-- A byte of the span a WRITE in the monochrome region covers, as the port shows it (R134, R173). -/
theorem monoWord_byte_storeAt (h : targetOf a = .mono) (hm : s.mono.wf = true) {k : Nat}
    (hlow : (monoOffset a).toNat ≤ k) (hhigh : k < (monoOffset a).toNat + size.bytes) :
    ((storeAt size a v s).monoWord (k / 4)).extractLsb' (8 * (k % 4)) 8 = byteOf v (k - (monoOffset a).toNat) := by
  simp only [storeAt, h]
  rw [State.monoWord, byte_wordAt, State.setMono_mono, read_regionWrite hm, if_pos ⟨hlow, hhigh⟩]

end StoredBytes

/-! ### A stale picture (R214) -/

/-- Commands that ask for no redraw are performed one after the other, and leave the port as it was. -/
theorem execAll_of_not_asksRedraw (js : List Instr) {u : State} (hjs : ∀ j ∈ js, asksRedraw j = false)
    (hu : u.initialised = true) (hbg : u.dirtyBg = false) (hdisp : u.dirtyDisp = false) :
    ∃ w, execAll js u = .next w ∧ w.initialised = true ∧ exported w = exported u := by
  induction js generalizing u with
  | nil => exact ⟨u, execAll_nil u, hu, rfl⟩
  | cons j js ih =>
    obtain ⟨hexec, hport⟩ := exec_of_not_asksRedraw (hjs j List.mem_cons_self) hu hbg hdisp
    have hbg' : (effect j u).dirtyBg = false := (congrArg DisplayPort.dirtyBg hport).trans hbg
    have hdisp' : (effect j u).dirtyDisp = false := (congrArg DisplayPort.dirtyDisp hport).trans hdisp
    obtain ⟨w, hall, hw, hport'⟩ :=
      ih (fun i hi => hjs i (List.mem_cons_of_mem j hi)) (effect_initialised hu) hbg' hdisp'
    exact ⟨w, (execAll_cons_of_next js hexec).trans hall, hw, hport'.trans hport⟩

/-- A performed redraw request makes the next pass draw every widget (R174, R214). -/
theorem drawList_of_asksRedraw {j : Instr} {w x : State} (hj : asksRedraw j = true) (h : exec j w = .next x) :
    ∃ d, displayPort x = some d ∧ [.leftDigit, .rightDigit, .rgbWidget, .monoWidget] <:+ drawList d := by
  refine ⟨exported x, displayPort_of_initialised (initialised_of_exec_next h), ?_⟩
  obtain ⟨rfl, -, -⟩ := exec_next h
  rw [drawList_exported, effect_dirtyDisp_of_asksRedraw w hj, if_pos rfl]
  exact List.suffix_append _ _

/-- With both flags clear the picture is stale: what keeps it stale keeps the port, and so the clear flags. -/
theorem staleUntilRedraw_of_clearFlags {u : State} (hu : u.initialised = true) (hbg : u.dirtyBg = false)
    (hdisp : u.dirtyDisp = false) : StaleUntilRedraw u := by
  intro js hjs
  obtain ⟨w, hall, hw, hport⟩ := execAll_of_not_asksRedraw js hjs hu hbg hdisp
  refine ⟨w, hall, ?_, ?_, fun j x hj h => drawList_of_asksRedraw hj h⟩
  · rw [displayPort_of_initialised hw, displayPort_of_initialised hu, hport]
  · rw [displayPort_of_initialised hw, hport, Option.map_some, drawList_exported, hbg, hdisp]
    rfl

/-- FRAME_DONE on an initialised block leaves its storage shown and undrawn (R153, R214). -/
theorem frameDone_leaves_stale {t : State} (ht : t.initialised = true) :
    exec .frameDone t = .next (effect .frameDone t)
      ∧ displayPort (effect .frameDone t) = some (exported (effect .frameDone t))
      ∧ drawList (exported (effect .frameDone t)) = [] ∧ StaleUntilRedraw (effect .frameDone t) :=
  ⟨exec_of_initialised ht rfl, displayPort_of_initialised (effect_initialised ht), drawList_effect_frameDone t,
    staleUntilRedraw_of_clearFlags (effect_initialised ht) rfl rfl⟩

/-- Settles O60: the port shows what the WRITE stored, or what was there at the INVALIDATE, with both flags clear. -/
theorem frameDoneHazard : Obligations.FrameDoneHazard := by
  intro s hs
  refine ⟨fun size a v => ?write, ?invalidate⟩
  case write =>
    have hwrite := (exec_writeInstr size a v s).trans (whenInitialised_of_true hs)
    obtain ⟨hdone, hport, hdraw, hstale⟩ := frameDone_leaves_stale (initialised_of_exec_next hwrite)
    refine ⟨_, _, _, hwrite, rfl, storeAt_dirtyBg size a v s, hdone, rfl, hport, fun h => ?segR, fun h => ?segL,
      fun h hm k hlow hhigh => ?rgb, fun h hm k hlow hhigh => ?mono, hdraw, hstale⟩
    case segR => exact ⟨storeAt_segR_of_segR size v h, storeAt_segL_of_segR size v h⟩
    case segL => exact storeAt_segL_of_segL size v h
    case rgb =>
      rw [exported_pix]
      exact rgbWord_byte_storeAt size v h hm hlow hhigh
    case mono =>
      rw [exported_row]
      exact monoWord_byte_storeAt size v h hm hlow hhigh
  case invalidate =>
    have hinvalidate : exec .invalidate s = .next (effect .invalidate s) := exec_of_initialised hs rfl
    obtain ⟨hdone, hport, hdraw, hstale⟩ := frameDone_leaves_stale (initialised_of_exec_next hinvalidate)
    exact ⟨_, _, _, hinvalidate, rfl, hdone, rfl, hport, hdraw, hstale⟩

end Sys2Proof.Proofs
